-- ==== Sys2Proof/Word.lean ====
section
/-! DEFINITION. The two word types of the core: the byte of memory, registers and operands (R5, R6) and the
9-bit program counter (R26). -/

namespace Sys2Proof

/-- A memory cell, a register, an opcode byte or an operand byte: 8 bits, unsigned (R5, R6). -/
abbrev Byte := BitVec 8

/-- A value of the program counter: 9 bits, unsigned (R26, decision D4). -/
abbrev Pc := BitVec 9

end Sys2Proof
end

