-- ==== Sys2Proof/Config.lean ====
section
/-! DEFINITION. The implementation parameters of R5. All but `spResetDefault` are fixed for this hardware. The spec
leaves no value open that a step can meet, so there is no free value (no `opaque`) in this model. -/

namespace Sys2Proof.Config

/-- `N`, the number of memory cells (R5, R50). -/
abbrev memSize : Nat := 256

/-- `NREG`, the number of registers (R5, R21). -/
abbrev numRegs : Nat := 8

/-- The index of the register that is the stack pointer (R5, R22). -/
abbrev spIndex : Fin 8 := 7

/-- The default of the named parameter `SP_RESET` (R44, decision D12; log entry 6). PRESUMED: the LS-8 family's
initial stack pointer. The parameter itself is the field `spReset` of State, so that a statement about every state
holds for every value of it. -/
def spResetDefault : Byte := 0xF4

end Sys2Proof.Config
end

