-- ==== Sys2Proof/Syntax.lean ====
section
/-! DEFINITION. The instruction set whole: the 13 opcode symbols of R83, the fetched bytes (the instruction latch of
R34), and the instructions as the machine sees them. -/

namespace Sys2Proof

/-- The opcode symbols, in the row order of R83. -/
inductive Opcode where
  | ldi | prn | mul | add | push | pop | call | ret | cmp | jmp | jeq | jne | hlt
  deriving DecidableEq, Repr

/-- The three bytes a cycle fetches: `IR = M[PC]`, `A = M[PC+1]`, `B = M[PC+2]` (R34). Rebuilt every cycle, so it is
no field of State. -/
structure Latch where
  ir : Byte
  a : Byte
  b : Byte
  deriving DecidableEq, Repr

/-- One constructor per row of the opcode table (R83). `a` and `b` are whole operand bytes. A register-index operand
may be any byte: 8..255 is a well-formed encoding (R87) and is checked only when the register is accessed (R106). -/
inductive Instr where
  /-- `LDI Ra, imm` (R140) -/
  | ldi (a imm : Byte)
  /-- `PRN Ra` (R145) -/
  | prn (a : Byte)
  /-- `MUL Ra, Rb` (R160) -/
  | mul (a b : Byte)
  /-- `ADD Ra, Rb` (R165) -/
  | add (a b : Byte)
  /-- `PUSH Ra` (R175) -/
  | push (a : Byte)
  /-- `POP Ra` (R180) -/
  | pop (a : Byte)
  /-- `CALL Ra` (R190) -/
  | call (a : Byte)
  /-- `RET` (R195) -/
  | ret
  /-- `CMP Ra, Rb` (R210) -/
  | cmp (a b : Byte)
  /-- `JMP Ra` (R215) -/
  | jmp (a : Byte)
  /-- `JEQ Ra` (R220) -/
  | jeq (a : Byte)
  /-- `JNE Ra` (R225) -/
  | jne (a : Byte)
  /-- `HLT` (R240) -/
  | hlt
  deriving DecidableEq, Repr

namespace Instr

/-- The opcode symbol of an instruction (R83). -/
def opcode : Instr → Opcode
  | ldi _ _ => .ldi
  | prn _ => .prn
  | mul _ _ => .mul
  | add _ _ => .add
  | push _ => .push
  | pop _ => .pop
  | call _ => .call
  | ret => .ret
  | cmp _ _ => .cmp
  | jmp _ => .jmp
  | jeq _ => .jeq
  | jne _ => .jne
  | hlt => .hlt

/-- The operand bytes in memory order, `a` before `b` (R56, R80). -/
def operands : Instr → List Byte
  | ldi a imm => [a, imm]
  | prn a => [a]
  | mul a b => [a, b]
  | add a b => [a, b]
  | push a => [a]
  | pop a => [a]
  | call a => [a]
  | ret => []
  | cmp a b => [a, b]
  | jmp a => [a]
  | jeq a => [a]
  | jne a => [a]
  | hlt => []

/-- The operand bytes that are register indices, in the order of their checks (R83, R106). -/
def regOperands : Instr → List Byte
  | ldi a _ => [a]
  | prn a => [a]
  | mul a b => [a, b]
  | add a b => [a, b]
  | push a => [a]
  | pop a => [a]
  | call a => [a]
  | ret => []
  | cmp a b => [a, b]
  | jmp a => [a]
  | jeq a => [a]
  | jne a => [a]
  | hlt => []

/-- The length in bytes: one opcode byte and the operand bytes (R80, R88). -/
def length (i : Instr) : Nat := 1 + i.operands.length

end Instr

end Sys2Proof
end

