-- ==== Sys2Proof/Machine/State.lean ====
section
/-! DEFINITION. The architectural state of R20 as plain data, the host port's bookkeeping (R40), the reasons a step
can stop without a next state, and the state after reset (R42 to R47, R65). -/

namespace Sys2Proof.Machine

/-- The reasons for `Outcome.fault`. There are none: each of the three faults of R300 has an effect the spec gives (RS
becomes Faulted and FR is written, R107), so it is a next state, never an end of the model (log entry 1). Safe. -/
inductive Fault where
  deriving DecidableEq, Repr

/-- The reasons for `Outcome.refused`. -/
inductive Refusal where
  /-- Raised by an arm of `exec` whose instruction has no meaning yet. No arm does so now. Safe: nothing can be
  proved of such a step. -/
  | notModelled (mnemonic : String)
  /-- Raised by `step` when the host sends `start` after a `load` was refused with AddressOutOfRange and no `reset`
  came between (R66, decision D20, item I11: "such an image has no run in this spec"). Safe: the model stops where
  a core that starts anyway would go on (log entry 4). No instruction raises it. -/
  | startAfterRefusedLoad
  deriving DecidableEq, Repr

/-- The memory `M` (R50): the cells that differ from 0x00, by rising address. An address that is not listed reads as
0x00, the reset content of every cell (R65). -/
abbrev Memory := List Host.Cell

/-- The register file, R0 to R7 (R21). `r7` is SP (R22). -/
structure RegFile where
  r0 : Byte
  r1 : Byte
  r2 : Byte
  r3 : Byte
  r4 : Byte
  r5 : Byte
  r6 : Byte
  r7 : Byte
  deriving DecidableEq, Repr

/-- The flags register FL: Equal, Less and Greater (R29). -/
structure Flags where
  e : Bool
  l : Bool
  g : Bool
  deriving DecidableEq, Repr

/-- The run state RS (R32). -/
inductive RunState where
  | idle | running | halted | faulted
  deriving DecidableEq, Repr

/-- The kinds of fault with what each reports (R300). -/
inductive FaultCause where
  /-- code 1: the out-of-range address as a signed integer -/
  | addressOutOfRange (addr : Int)
  /-- code 2: the out-of-range register index -/
  | registerOutOfRange (index : Byte)
  /-- code 3: the opcode byte that matches no row -/
  | unknownOpcode (ir : Byte)
  deriving DecidableEq, Repr

/-- The fault record FR (R33): the kind with its information, and the PC of the faulting instruction. `cause = none`
is code 0 with info 0. -/
structure FaultRecord where
  cause : Option FaultCause
  pc : Pc
  deriving DecidableEq, Repr

/-- The commands of the host port (R40). The operand ranges R40 gives are the types: a register number is 0..7 and a
PC value 0..256 (log entry 5).
`readOut` is the read of OUT that R240 and R312 give the host. R40's table has no row for it, so its form is DEDUCED: it
is one more read of that table (log entry 19). -/
inductive HostCmd where
  | reset
  | load (addr : Int) (v : Byte)
  | writeReg (i : Fin 8) (v : Byte)
  | writeFl (f : Byte)
  | writePc (p : Fin 257)
  | readMem (addr : Int)
  | readReg (i : Fin 8)
  | readFl
  | readPc
  | readOut
  | start
  deriving DecidableEq, Repr

/-- What the host port answers to a command (R40; log entry 3). -/
inductive HostReply where
  /-- a `reset`, `load`, write or `start` that took effect -/
  | accepted
  /-- a command given in a run state not listed for it: no effect -/
  | refused
  /-- a `load` or `read_mem` outside [0, 256): no effect (R51, R66) -/
  | addressOutOfRange (addr : Int)
  /-- the value of a `read_mem`, `read_reg` or `read_fl` -/
  | byteValue (v : Byte)
  /-- the value of a `read_pc` -/
  | pcValue (p : Pc)
  /-- the value of a read of OUT, oldest element first (R240; log entry 19) -/
  | outValue (vs : List Byte)
  deriving DecidableEq, Repr

/-- The host port. It is the model's own bookkeeping, not architectural state (log entries 2 to 4). -/
structure HostPort where
  /-- What the host does at the coming steps, the next one first: `some c` sends the command c, `none` lets the core
  run one cycle. After the end of the list the host sends nothing more. -/
  pending : List (Option HostCmd)
  /-- The answers given so far, oldest first. -/
  replies : List HostReply
  /-- A `load` was refused with AddressOutOfRange since the last reset (R66). -/
  loadRefused : Bool
  deriving DecidableEq, Repr

/-- The whole state. `mem` to `out` are R20's list; `spReset` and `port` are the model's own. -/
structure State where
  /-- `M[0..255]` (R50) -/
  mem : Memory
  /-- `R[0..7]` (R21, R22) -/
  regs : RegFile
  /-- FL (R29) -/
  fl : Flags
  /-- PC (R26) -/
  pc : Pc
  /-- RS (R32) -/
  rs : RunState
  /-- FR (R33) -/
  fr : FaultRecord
  /-- OUT, the bytes emitted, oldest first (R37) -/
  out : List Byte
  /-- The parameter SP_RESET of this core (R44, decision D12). No step changes it (log entry 6). -/
  spReset : Byte
  /-- The host port (R40). -/
  port : HostPort
  deriving DecidableEq, Repr

/-- FR with nothing recorded: code 0, info 0, pc 0 (R47). -/
def FaultRecord.empty : FaultRecord := ⟨none, 0⟩

/-- The state after a reset of a core whose SP_RESET is `sp`, with nothing yet sent by the host (R42 to R47, R65,
R350). -/
def State.resetWith (sp : Byte) : State where
  mem := []
  regs := ⟨0, 0, 0, 0, 0, 0, 0, sp⟩
  fl := ⟨false, false, false⟩
  pc := 0
  rs := .idle
  fr := .empty
  out := []
  spReset := sp
  port := ⟨[], [], false⟩

/-- The machine right after reset, with the default SP_RESET. -/
def State.reset : State := State.resetWith Config.spResetDefault

end Sys2Proof.Machine
end

