-- ==== Sys2Proof/Machine/Ops.lean ====
section
/-! DEFINITION. The named operations over memory, registers, PC, OUT and RS that every instruction is built from (R7),
and the one way a fault is taken (R107). There is no return from a fault: only the host's `reset` leaves Faulted
(R305); see `hostReset` in HostPort.lean. -/

namespace Sys2Proof.Machine

/-! ### Numbers -/

/-- `trunc8(v)`: an integer reduced modulo 256 (R7, R150). -/
def trunc8 (n : Nat) : Byte := BitVec.ofNat 8 n

/-- `zext_9(v)`: a byte widened to the PC (R7, R28). -/
def zext9 (v : Byte) : Pc := v.setWidth 9

/-! ### Memory (R50 to R52) -/

/-- The byte in cell `a`: the listed one, else 0x00 (R65). -/
def Memory.byte : Memory → Nat → Byte
  | [], _ => 0
  | (k, v) :: t, a => if k = a then v else Memory.byte t a

/-- Write cell `a`, keeping the list in its canonical form: addresses strictly rising, no byte 0x00 listed. -/
def Memory.set : Memory → Nat → Byte → Memory
  | [], a, v => if v = 0#8 then [] else [(a, v)]
  | (k, w) :: t, a, v =>
    if a < k then (if v = 0#8 then (k, w) :: t else (a, v) :: (k, w) :: t)
    else if a = k then (if v = 0#8 then t else (a, v) :: t)
    else (k, w) :: Memory.set t a v

/-- Canonical form from address `lo` up. -/
def Memory.wfFrom : Nat → Memory → Bool
  | _, [] => true
  | lo, (k, v) :: t => decide (lo ≤ k ∧ k < Config.memSize ∧ v ≠ 0#8) && Memory.wfFrom (k + 1) t

/-- The canonical form of memory: addresses strictly rising and below 256, no byte 0x00 listed. -/
def Memory.wf (m : Memory) : Bool := Memory.wfFrom 0 m

/-- `MemRead(addr, 1)` through the bounds check (R51). The address is an integer, so that -1 and 256 reach the check
(R53). -/
def memRead (addr : Int) (s : State) : Except FaultCause Byte :=
  if addr < 0 ∨ (Config.memSize : Int) ≤ addr then .error (.addressOutOfRange addr)
  else .ok (s.mem.byte addr.toNat)

/-- `MemWrite(addr, 1, v)` through the same check (R51); it mutates exactly one cell (R52). -/
def memWrite (addr : Int) (v : Byte) (s : State) : Except FaultCause State :=
  if addr < 0 ∨ (Config.memSize : Int) ≤ addr then .error (.addressOutOfRange addr)
  else .ok { s with mem := s.mem.set addr.toNat v }

/-! ### Registers (R21 to R23) -/

/-- Read register `i` of the file. -/
def RegFile.get (r : RegFile) (i : Fin 8) : Byte :=
  match i with
  | 0 => r.r0
  | 1 => r.r1
  | 2 => r.r2
  | 3 => r.r3
  | 4 => r.r4
  | 5 => r.r5
  | 6 => r.r6
  | 7 => r.r7

/-- Write register `i` of the file. No register is hardwired (R23). -/
def RegFile.set (r : RegFile) (i : Fin 8) (v : Byte) : RegFile :=
  match i with
  | 0 => { r with r0 := v }
  | 1 => { r with r1 := v }
  | 2 => { r with r2 := v }
  | 3 => { r with r3 := v }
  | 4 => { r with r4 := v }
  | 5 => { r with r5 := v }
  | 6 => { r with r6 := v }
  | 7 => { r with r7 := v }

/-- `R[i]` (R7). -/
def State.reg (s : State) (i : Fin 8) : Byte := s.regs.get i

/-- `R[i] <- v` (R7). -/
def State.setReg (s : State) (i : Fin 8) (v : Byte) : State := { s with regs := s.regs.set i v }

/-- SP, the other name of R7 (R22). -/
def State.sp (s : State) : Byte := s.reg Config.spIndex

/-- `R[7] <- v` (R22). -/
def State.setSp (s : State) (v : Byte) : State := s.setReg Config.spIndex v

/-! ### PC, OUT, FL and RS -/

/-- `PC <- p + n`: sequential advance (R104). A fetchable PC is at most 253, so it never wraps (R27). -/
def State.advance (s : State) (n : Nat) : State := { s with pc := s.pc + BitVec.ofNat 9 n }

/-- `PC <- zext_9(target)` (R28, R104). -/
def State.jump (s : State) (target : Byte) : State := { s with pc := zext9 target }

/-- `emit(v)`: append one byte to OUT (R7, R37). -/
def State.emit (s : State) (v : Byte) : State := { s with out := s.out ++ [v] }

/-- Write all three flags (R29). -/
def State.setFl (s : State) (f : Flags) : State := { s with fl := f }

/-- `halt`: RS becomes Halted and PC stays (R7, R240). -/
def State.halt (s : State) : State := { s with rs := .halted }

/-! ### Taking a fault -/

/-- R107: a fault sets RS and FR, with the PC of the faulting instruction, and changes nothing else. -/
def raiseFault (c : FaultCause) (s : State) : State := { s with rs := .faulted, fr := ⟨some c, s.pc⟩ }

/-- The end of an instruction begun at `s`: its next state, or the fault taken from `s` itself. What the body had
computed before it raised is dropped, so faults are precise (R8, R107, decision D7). -/
def finish (s : State) : Except FaultCause State → Host.Outcome State Fault Refusal
  | .ok s' => .next s'
  | .error c => .next (raiseFault c s)

/-! ### Stack pointer adjustment -/

/-- `sp_dec()` of R171: SP - 1, range-checked, never wrapped. -/
def spDec (s : State) : Except FaultCause Byte :=
  if s.sp = 0#8 then .error (.addressOutOfRange (-1)) else .ok (s.sp - 1)

/-- `sp_inc()` of R171: SP + 1, range-checked, never wrapped (decision D6). -/
def spInc (s : State) : Except FaultCause Byte :=
  if s.sp = 255#8 then .error (.addressOutOfRange 256) else .ok (s.sp + 1)

/-- The return address of a CALL at `p`: p + 2 as a byte (R190). A fetchable PC is at most 253, so no bit is lost. -/
def returnAddress (p : Pc) : Byte := (p + 2).setWidth 8

/-! ### Host port bookkeeping -/

/-- Append one answer on the host port (R40). -/
def State.reply (s : State) (r : HostReply) : State :=
  { s with port := { s.port with replies := s.port.replies ++ [r] } }

/-- The host's remaining schedule becomes `q`. -/
def State.setPending (s : State) (q : List (Option HostCmd)) : State :=
  { s with port := { s.port with pending := q } }

/-- Remember that a `load` was refused with AddressOutOfRange (R66). -/
def State.noteLoadRefused (s : State) : State := { s with port := { s.port with loadRefused := true } }

end Sys2Proof.Machine
end

