-- ==== Sys2Proof/Machine/Operands.lean ====
section
/-! DEFINITION. The operand forms of R84: a register operand (its index checked when it is accessed, R106) and an
immediate, which is the operand byte itself. A jump target is the byte of a register or of memory (`State.jump`). -/

namespace Sys2Proof.Machine

/-- The register-index check of R106: 0..7 names a register, 8..255 raises RegisterOutOfRange(index) (R24). -/
def checkReg (index : Byte) : Except FaultCause (Fin 8) :=
  if h : index.toNat < Config.numRegs then .ok ⟨index.toNat, h⟩ else .error (.registerOutOfRange index)

/-- The value of LDI's immediate operand: the byte unchanged (R84, R140). -/
def immediate (b : Byte) : Byte := b

end Sys2Proof.Machine
end

