-- ==== Sys2Proof/Machine/Arithmetic.lean ====
section
/-! DEFINITION. MUL and ADD (spec/42_arithmetic.md). Both are one shared form over an exact integer operation whose
result is reduced modulo 256 (R150). -/

namespace Sys2Proof.Machine

/-- The shared form of R160 and R165: check `a`, then `b`, then `R[a] <- trunc8(op(R[a], R[b]))` and PC + 3. -/
def arithmetic (op : Nat → Nat → Nat) (a b : Byte) (s : State) : Except FaultCause State := do
  let i ← checkReg a
  let j ← checkReg b
  return (s.setReg i (trunc8 (op (s.reg i).toNat (s.reg j).toNat))).advance 3

/-- MUL Ra, Rb (R160). -/
def execMul (a b : Byte) (s : State) : Host.Outcome State Fault Refusal :=
  finish s (arithmetic (fun x y => x * y) a b s)

/-- ADD Ra, Rb (R165). -/
def execAdd (a b : Byte) (s : State) : Host.Outcome State Fault Refusal :=
  finish s (arithmetic (fun x y => x + y) a b s)

end Sys2Proof.Machine
end

