-- ==== Sys2Proof/Machine/Stack.lean ====
section
/-! DEFINITION. PUSH and POP (spec/43_stack.md), over the two stack operations they share with CALL and RET (R170). -/

namespace Sys2Proof.Machine

/-- Push the byte `v`: decrement SP, then store at the new SP (R170, R171). -/
def pushByte (v : Byte) (s : State) : Except FaultCause State := do
  let t ← spDec s
  memWrite t.toNat v (s.setSp t)

/-- Pop: the byte at SP, and the state with SP incremented (R170, R171). -/
def popByte (s : State) : Except FaultCause (Byte × State) := do
  let v ← memRead s.sp.toNat s
  let t ← spInc s
  return (v, s.setSp t)

/-- PUSH Ra (R175). R[a] is read before SP changes (decision D15). -/
def execPush (a : Byte) (s : State) : Host.Outcome State Fault Refusal :=
  finish s do
    let i ← checkReg a
    let s' ← pushByte (s.reg i) s
    return s'.advance 2

/-- POP Ra (R180). R[a] is written after SP, so that `POP R7` leaves the popped byte (decision D15). -/
def execPop (a : Byte) (s : State) : Host.Outcome State Fault Refusal :=
  finish s do
    let i ← checkReg a
    let (v, s') ← popByte s
    return (s'.setReg i v).advance 2

end Sys2Proof.Machine
end

