-- ==== Sys2Proof/Machine/CallReturn.lean ====
section
/-! DEFINITION. CALL and RET (spec/44_call_return.md). -/

namespace Sys2Proof.Machine

/-- CALL Ra (R190). The target is read after the SP write, so that `CALL R7` jumps to the new SP. -/
def execCall (a : Byte) (s : State) : Host.Outcome State Fault Refusal :=
  finish s do
    let i ← checkReg a
    let s' ← pushByte (returnAddress s.pc) s
    return s'.jump (s'.reg i)

/-- RET (R195). -/
def execRet (s : State) : Host.Outcome State Fault Refusal :=
  finish s do
    let (v, s') ← popByte s
    return s'.jump v

end Sys2Proof.Machine
end

