-- ==== Sys2Proof/WellFormed.lean ====
section
/-! DEFINITION. What is a well-formed instruction. The types of Syntax.lean leave nothing to refuse: every operand is
a whole byte, and R87 says that operand values are never illegal. The checks that do refuse something are on the
opcode byte (R86) and on the register names an instruction uses (R24, R89). -/

namespace Sys2Proof

/-- R87: an instruction of the table is a well-formed encoding whatever its operand bytes are. -/
def Instr.wellFormed : Instr → Bool
  | .ldi _ _ | .prn _ | .mul _ _ | .add _ _ | .push _ | .pop _ | .call _ | .ret | .cmp _ _ | .jmp _ | .jeq _
  | .jne _ | .hlt => true

/-- Every register-index operand names a register, 0..7 (R24). With it no instruction can raise
RegisterOutOfRange. -/
def Instr.namesRegisters (i : Instr) : Bool := i.regOperands.all fun a => decide (a.toNat < 8)

/-- R86: the 243 illegal opcode bytes, as the ranges that rule lists. It is written from R86 and not from the opcode
map, so that a statement can compare the two. -/
def illegalOpcode (b : Byte) : Bool :=
  let n := b.toNat
  n = 0x00 ∨ (0x02 ≤ n ∧ n ≤ 0x10) ∨ (0x12 ≤ n ∧ n ≤ 0x44) ∨ (0x48 ≤ n ∧ n ≤ 0x4F) ∨ (0x51 ≤ n ∧ n ≤ 0x53) ∨
    (0x57 ≤ n ∧ n ≤ 0x81) ∨ (0x83 ≤ n ∧ n ≤ 0x9F) ∨ n = 0xA1 ∨ (0xA3 ≤ n ∧ n ≤ 0xA6) ∨ (0xA8 ≤ n ∧ n ≤ 0xFF)

end Sys2Proof
end

