-- ==== Sys2Proof/Decode.lean ====
section
/-! DEFINITION. The instruction decoder (R82, R83, R100) and after it the encoder, both from the one opcode map of
R83. The decoder is total: it answers an instruction or rejects the opcode byte by name. -/

namespace Sys2Proof

/-- Why the decoder rejects (R102). -/
inductive DecodeError where
  /-- The opcode byte matches no row of R83; the control logic turns it into the fault UnknownOpcode. -/
  | unknownOpcode (ir : Byte)
  deriving DecidableEq, Repr

/-- The rows of the opcode map, in order (R83). -/
def Opcode.all : List Opcode :=
  [.ldi, .prn, .mul, .add, .push, .pop, .call, .ret, .cmp, .jmp, .jeq, .jne, .hlt]

/-- The opcode column of R83, in binary as the source writes it. -/
def Opcode.byte : Opcode → Byte
  | .ldi => 0b10000010#8
  | .prn => 0b01000111#8
  | .mul => 0b10100010#8
  | .add => 0b10100000#8
  | .push => 0b01000101#8
  | .pop => 0b01000110#8
  | .call => 0b01010000#8
  | .ret => 0b00010001#8
  | .cmp => 0b10100111#8
  | .jmp => 0b01010100#8
  | .jeq => 0b01010101#8
  | .jne => 0b01010110#8
  | .hlt => 0b00000001#8

/-- The operand-byte column of R83: fixed per opcode, not derived from the bits (R82, conflict C1). -/
def Opcode.operandCount : Opcode → Nat
  | .ldi => 2
  | .prn => 1
  | .mul => 2
  | .add => 2
  | .push => 1
  | .pop => 1
  | .call => 1
  | .ret => 0
  | .cmp => 2
  | .jmp => 1
  | .jeq => 1
  | .jne => 1
  | .hlt => 0

/-- The row whose pattern equals the whole opcode byte, if one does (R82). -/
def decodeOpcode (ir : Byte) : Option Opcode := Opcode.all.find? fun op => op.byte == ir

/-- The instruction of an opcode with `a = A` and `b = B` (R84, R103); a byte the format does not use is ignored
(R81). -/
def assemble : Opcode → Byte → Byte → Instr
  | .ldi, a, b => .ldi a b
  | .prn, a, _ => .prn a
  | .mul, a, b => .mul a b
  | .add, a, b => .add a b
  | .push, a, _ => .push a
  | .pop, a, _ => .pop a
  | .call, a, _ => .call a
  | .ret, _, _ => .ret
  | .cmp, a, b => .cmp a b
  | .jmp, a, _ => .jmp a
  | .jeq, a, _ => .jeq a
  | .jne, a, _ => .jne a
  | .hlt, _, _ => .hlt

/-- The decoder: the latched bytes give an instruction, or the opcode byte is rejected (R82, R102). -/
def decode (l : Latch) : Except DecodeError Instr :=
  match decodeOpcode l.ir with
  | some op => .ok (assemble op l.a l.b)
  | none => .error (.unknownOpcode l.ir)

/-- The latch that holds the first three bytes of a list; a missing byte is 0. -/
def Latch.ofBytes : List Byte → Latch
  | [] => ⟨0, 0, 0⟩
  | [x] => ⟨x, 0, 0⟩
  | [x, y] => ⟨x, y, 0⟩
  | x :: y :: z :: _ => ⟨x, y, z⟩

/-- The encoder: the opcode byte at PC, then the operand bytes (R56, R80, R83). -/
def encode (i : Instr) : List Byte := i.opcode.byte :: i.operands

/-- Byte `k` of an instruction whose bits are `w`, counted as spec/opcode_table.json counts them, all bits from
`nbits` up being 0. -/
def tableByte (nbits w k : Nat) : Byte := BitVec.ofNat 8 (w % 2 ^ nbits / 2 ^ (8 * k))

/-- The instruction the decoder reads from a word of the opcode table, the first byte in bits 7..0. -/
def decodeTableWord (nbits w : Nat) : Option Instr :=
  (decode ⟨tableByte nbits w 0, tableByte nbits w 1, tableByte nbits w 2⟩).toOption

end Sys2Proof
end

