-- ==== Sys2Proof/Machine/Flags.lean ====
section
/-! DEFINITION. Every flag computation: what CMP sets (R210), the conditional branch arbiter (R105), and the byte the
host port reads and writes FL as (R48). -/

namespace Sys2Proof.Machine

/-- CMP's flags of two register values, compared unsigned (R210). -/
def compareFlags (x y : Byte) : Flags where
  e := decide (x.toNat = y.toNat)
  l := decide (x.toNat < y.toNat)
  g := decide (x.toNat > y.toNat)

/-- The conditional branch arbiter: `taken` from the opcode and FL.E alone (R105). -/
def branchTaken (op : Opcode) (f : Flags) : Bool := (op == .jeq && f.e) || (op == .jne && !f.e)

/-- FL as the host port reads it: bit 0 is E, bit 1 is G, bit 2 is L, bits 7:3 read as 0 (R48, decision D14). -/
def Flags.toByte (f : Flags) : Byte :=
  BitVec.ofNat 8 ((if f.l then 4 else 0) + (if f.g then 2 else 0) + (if f.e then 1 else 0))

/-- FL as the host port writes it: bits 7:3 are ignored (R48). -/
def Flags.ofByte (b : Byte) : Flags := ⟨b.getLsbD 0, b.getLsbD 2, b.getLsbD 1⟩

end Sys2Proof.Machine
end

