-- ==== Sys2Proof/Machine/CompareBranch.lean ====
section
/-! DEFINITION. CMP, JMP, JEQ and JNE (spec/45_compare_branch.md). -/

namespace Sys2Proof.Machine

/-- CMP Ra, Rb (R210). -/
def execCmp (a b : Byte) (s : State) : Host.Outcome State Fault Refusal :=
  finish s do
    let i ← checkReg a
    let j ← checkReg b
    return (s.setFl (compareFlags (s.reg i) (s.reg j))).advance 3

/-- `PC <- zext_9(R[a])`, the index checked (R215). -/
def jumpToReg (a : Byte) (s : State) : Except FaultCause State := do
  let i ← checkReg a
  return s.jump (s.reg i)

/-- The shared form of R220 and R225: the register is accessed, and so checked, only when taken (decision D8); not
taken advances by exactly 2 (conflict C2). -/
def conditionalJump (op : Opcode) (a : Byte) (s : State) : Except FaultCause State :=
  if branchTaken op s.fl then jumpToReg a s else .ok (s.advance 2)

/-- JMP Ra (R215). -/
def execJmp (a : Byte) (s : State) : Host.Outcome State Fault Refusal := finish s (jumpToReg a s)

/-- JEQ Ra (R220). -/
def execJeq (a : Byte) (s : State) : Host.Outcome State Fault Refusal := finish s (conditionalJump .jeq a s)

/-- JNE Ra (R225). -/
def execJne (a : Byte) (s : State) : Host.Outcome State Fault Refusal := finish s (conditionalJump .jne a s)

end Sys2Proof.Machine
end

