-- ==== Sys2Proof/Machine/Halt.lean ====
section
/-! DEFINITION. HLT (spec/46_halt.md). -/

namespace Sys2Proof.Machine

/-- HLT (R240): RS becomes Halted, PC stays at the HLT. -/
def execHlt (s : State) : Host.Outcome State Fault Refusal := finish s (.ok s.halt)

end Sys2Proof.Machine
end

