-- ==== Sys2Proof/Machine/LoadOutput.lean ====
section
/-! DEFINITION. LDI and PRN (spec/41_load_output.md). -/

namespace Sys2Proof.Machine

/-- LDI Ra, imm (R140). -/
def execLdi (a imm : Byte) (s : State) : Host.Outcome State Fault Refusal :=
  finish s do
    let i ← checkReg a
    return (s.setReg i (immediate imm)).advance 3

/-- PRN Ra (R145). -/
def execPrn (a : Byte) (s : State) : Host.Outcome State Fault Refusal :=
  finish s do
    let i ← checkReg a
    return (s.emit (s.reg i)).advance 2

end Sys2Proof.Machine
end

