-- ==== Sys2Proof/Machine/Fetch.lean ====
section
/-! DEFINITION. The fetch unit (R101), and how the model places an instruction where the next fetch reads. -/

namespace Sys2Proof.Machine

/-- The fetch of R101: three bounds-checked reads at PC, PC+1, PC+2 in this order, whatever the opcode is
(decision D5, conflict C6). -/
def fetch (s : State) : Except FaultCause Latch := do
  let ir ← memRead (s.pc.toNat : Int) s
  let a ← memRead (s.pc.toNat + 1 : Int) s
  let b ← memRead (s.pc.toNat + 2 : Int) s
  return ⟨ir, a, b⟩

/-- Three bytes written at PC, PC+1, PC+2, and all else a cycle needs to fetch them: RS Running with FR empty, no host
command waiting, and PC at 0 where it stood at 254 or above, where no fetch can succeed (R101). -/
def placeBytes (s : State) (x y z : Byte) : State :=
  let p : Pc := if s.pc.toNat < 254 then s.pc else 0
  { s.setPending [] with
    pc := p
    rs := .running
    fr := .empty
    mem := ((s.mem.set p.toNat x).set (p.toNat + 1) y).set (p.toNat + 2) z }

end Sys2Proof.Machine
end

