-- ==== Sys2Proof/Machine/Cycle.lean ====
section
/-! DEFINITION. One pass of the control logic: fetch, decode, dispatch (R100 to R103, R109). -/

namespace Sys2Proof.Machine

/-- Decode the latched bytes and perform the instruction, or raise UnknownOpcode with PC unmoved (R102, R103). -/
def dispatch (l : Latch) (s : State) : Host.Outcome State Fault Refusal :=
  match decode l with
  | .error (.unknownOpcode ir) => .next (raiseFault (.unknownOpcode ir) s)
  | .ok i => exec i s

/-- One cycle. Only Running runs one; in Idle, Halted and Faulted the state stays as it is (R32, R101, R110). -/
def cycle (s : State) : Host.Outcome State Fault Refusal :=
  match s.rs with
  | .running =>
    match fetch s with
    | .error c => .next (raiseFault c s)
    | .ok l => dispatch l s
  | .idle => .next s
  | .halted => .next s
  | .faulted => .next s

end Sys2Proof.Machine
end

