-- ==== Sys2Proof/Machine/HostPort.lean ====
section
/-! DEFINITION. The host port: the effect of every command of R40 and of the read
of OUT (R240), and the answer it gives. A command in a run state
not listed for it has no effect and is answered `refused` (R40, decision D21). -/

namespace Sys2Proof.Machine

/-- The run states in which reads are accepted: all but Running (R40). -/
def hostMayRead (rs : RunState) : Bool :=
  match rs with
  | .idle => true
  | .running => false
  | .halted => true
  | .faulted => true

/-- `reset`, accepted in every run state: every piece of architectural state at its reset value in one step (R40,
R350). SP_RESET, the host's schedule and the answers already given are no architectural state and stay. -/
def hostReset (s : State) : State :=
  { State.resetWith s.spReset with port := { s.port with loadRefused := false } }

/-- `load(addr, v)`, accepted in Idle (R40, R66). -/
def hostLoad (addr : Int) (v : Byte) (s : State) : State :=
  if s.rs = .idle then
    match memWrite addr v s with
    | .ok s' => s'.reply .accepted
    | .error _ => s.noteLoadRefused.reply (.addressOutOfRange addr)
  else s.reply .refused

/-- A write of state, accepted in Idle (R40). -/
def hostWrite (write : State → State) (s : State) : State :=
  if s.rs = .idle then (write s).reply .accepted else s.reply .refused

/-- `write_reg(i, v)` (R40). -/
def hostWriteReg (i : Fin 8) (v : Byte) (s : State) : State := hostWrite (fun t => t.setReg i v) s

/-- `write_fl(f)`, in the layout of R48 (R40). -/
def hostWriteFl (f : Byte) (s : State) : State := hostWrite (fun t => t.setFl (Flags.ofByte f)) s

/-- `write_pc(p)`, p in 0..256 (R40). -/
def hostWritePc (p : Fin 257) (s : State) : State := hostWrite (fun t => { t with pc := BitVec.ofNat 9 p.val }) s

/-- A read of state: it changes nothing but the answer (R40). -/
def hostRead (answer : State → HostReply) (s : State) : State :=
  if hostMayRead s.rs then s.reply (answer s) else s.reply .refused

/-- The answer to `read_mem(addr)`, through the bounds check of R51. -/
def memAnswer (addr : Int) (s : State) : HostReply :=
  match memRead addr s with
  | .ok v => .byteValue v
  | .error _ => .addressOutOfRange addr

/-- `start`, accepted in Idle: execution begins at the current PC (R40). After a refused `load` the spec gives no run
(R66, decision D20). -/
def hostStart (s : State) : Host.Outcome State Fault Refusal :=
  if s.rs = .idle then
    if s.port.loadRefused then .refused .startAfterRefusedLoad
    else .next ({ s with rs := .running }.reply .accepted)
  else .next (s.reply .refused)

/-- The effect of one host command (R40; for `readOut` R240, R312 and log entry 19). -/
def hostCommand (c : HostCmd) (s : State) : Host.Outcome State Fault Refusal :=
  match c with
  | .reset => .next ((hostReset s).reply .accepted)
  | .load addr v => .next (hostLoad addr v s)
  | .writeReg i v => .next (hostWriteReg i v s)
  | .writeFl f => .next (hostWriteFl f s)
  | .writePc p => .next (hostWritePc p s)
  | .readMem addr => .next (hostRead (memAnswer addr) s)
  | .readReg i => .next (hostRead (fun t => .byteValue (t.reg i)) s)
  | .readFl => .next (hostRead (fun t => .byteValue t.fl.toByte) s)
  | .readPc => .next (hostRead (fun t => .pcValue t.pc) s)
  | .readOut => .next (hostRead (fun t => .outValue t.out) s)
  | .start => hostStart s

end Sys2Proof.Machine
end

