-- ==== Sys2Proof/Machine/Ports.lean ====
section
/-! DEFINITION. What the core shows the host at the ports that only observe: the status port (R39, R300), the output
port (R38) and the optional trace port (R310). None of them changes the state. -/

namespace Sys2Proof.Machine

/-- The code of the fault kinds; 0 is no fault (R300, decision D10). -/
def faultCode : Option FaultCause → Nat
  | none => 0
  | some (.addressOutOfRange _) => 1
  | some (.registerOutOfRange _) => 2
  | some (.unknownOpcode _) => 3

/-- FR.info as an integer: the address, the register index or the opcode byte (R300). -/
def faultInfo : Option FaultCause → Int
  | none => 0
  | some (.addressOutOfRange a) => a
  | some (.registerOutOfRange i) => i.toNat
  | some (.unknownOpcode b) => b.toNat

/-- What the status port presents: RS, and FR with its code, a 16-bit two's-complement info and a 9-bit PC (R39,
R300). -/
structure Status where
  rs : RunState
  code : Nat
  info : BitVec 16
  pc : Pc
  deriving DecidableEq, Repr

/-- The status port (R39). When RS is not Faulted, FR reads as code 0 with info 0 (R33). -/
def statusPort (s : State) : Status :=
  let cause := if s.rs = .faulted then s.fr.cause else none
  ⟨s.rs, faultCode cause, BitVec.ofInt 16 (faultInfo cause), s.fr.pc⟩

/-- The events `out(v)` of the output port in a step from `s` to `t` (R38): the elements OUT gained. -/
def outputEvents (s t : State) : List Byte := t.out.drop s.out.length

/-- A record of the trace port (R310). -/
structure TraceRecord where
  pc : Pc
  ir : Byte
  a : Byte
  b : Byte
  regs : RegFile
  deriving DecidableEq, Repr

/-- The record the trace port presents in the cycle that begins at `s`: one after each successful fetch, with the
registers as they are before the instruction; none when the fetch faults or no cycle runs (R310). -/
def traceRecord (s : State) : Option TraceRecord :=
  match s.rs with
  | .running =>
    match fetch s with
    | .ok l => some ⟨s.pc, l.ir, l.a, l.b, s.regs⟩
    | .error _ => none
  | .idle => none
  | .halted => none
  | .faulted => none

/-- The record presented in a step from `s`: none in a step that serves a host command. -/
def stepTrace (s : State) : Option TraceRecord :=
  match s.port.pending with
  | some _ :: _ => none
  | none :: _ => traceRecord s
  | [] => traceRecord s

end Sys2Proof.Machine
end

