-- ==== Sys2Proof/Machine/Step.lean ====
section
/-! DEFINITION. One step of the machine: what the host does between cycles comes first (R40), else the core runs one
cycle (R109). -/

namespace Sys2Proof.Machine

/-- A step serves the host command that waits, or runs one cycle. An instruction is one indivisible step (R109), so a
command lands only between two instructions (log entry 2). -/
def step (s : State) : Host.Outcome State Fault Refusal :=
  match s.port.pending with
  | some c :: q => hostCommand c (s.setPending q)
  | none :: q => cycle (s.setPending q)
  | [] => cycle s

/-- `s` with the instruction of a word of the opcode table where the next step fetches it. -/
def State.withFetchWord (s : State) (nbits w : Nat) : State :=
  placeBytes s (tableByte nbits w 0) (tableByte nbits w 1) (tableByte nbits w 2)

end Sys2Proof.Machine
end

