-- ==== Sys2Proof/Laws/Memory.lean ====
section
/-! SUPPORT. The laws of memory: a write keeps the canonical form, a read after a write, and the two bounds-checked
operations each in one equation. -/

namespace Sys2Proof.Machine

/-- A canonical memory from `lo + 1` up is canonical from `lo` up. -/
theorem Memory.wfFrom_mono {lo hi : Nat} (h : lo ≤ hi) {m : Memory} (hm : m.wfFrom hi = true) :
    m.wfFrom lo = true := by
  cases m with
  | nil => rfl
  | cons c t =>
    obtain ⟨k, v⟩ := c
    simp only [Memory.wfFrom, Bool.and_eq_true, decide_eq_true_eq] at hm ⊢
    exact ⟨⟨h.trans hm.1.1, hm.1.2⟩, hm.2⟩

/-- Below its lowest address a canonical memory reads as 0x00. -/
theorem Memory.byte_below {m : Memory} {lo a : Nat} (hm : m.wfFrom lo = true) (ha : a < lo) : m.byte a = 0#8 := by
  induction m generalizing lo with
  | nil => rfl
  | cons c t ih =>
    obtain ⟨k, v⟩ := c
    simp only [Memory.wfFrom, Bool.and_eq_true, decide_eq_true_eq] at hm
    have hk : k ≠ a := by omega
    simp only [Memory.byte, hk, if_false]
    exact ih hm.2 (by omega)

/-- A write keeps the canonical form. -/
theorem Memory.wfFrom_set {m : Memory} {lo a : Nat} (v : Byte) (hm : m.wfFrom lo = true) (hlo : lo ≤ a)
    (ha : a < 256) : (m.set a v).wfFrom lo = true := by
  induction m generalizing lo with
  | nil =>
    by_cases hv : v = 0#8 <;> simp [Memory.set, Memory.wfFrom, hv, hlo, ha]
  | cons c t ih =>
    obtain ⟨k, w⟩ := c
    have hm' := hm
    simp only [Memory.wfFrom, Bool.and_eq_true, decide_eq_true_eq] at hm'
    obtain ⟨⟨h1, h2, h3⟩, h4⟩ := hm'
    simp only [Memory.set]
    split
    · split
      · exact hm
      · simp only [Memory.wfFrom, Bool.and_eq_true, decide_eq_true_eq]
        exact ⟨⟨hlo, ha, ‹_›⟩, ⟨by omega, h2, h3⟩, h4⟩
    · split
      · split
        · exact Memory.wfFrom_mono (by omega) h4
        · simp only [Memory.wfFrom, Bool.and_eq_true, decide_eq_true_eq]
          subst_vars
          exact ⟨⟨hlo, ha, ‹_›⟩, h4⟩
      · simp only [Memory.wfFrom, Bool.and_eq_true, decide_eq_true_eq]
        exact ⟨⟨h1, h2, h3⟩, ih h4 (by omega)⟩

theorem Memory.wf_set {m : Memory} {a : Nat} (v : Byte) (hm : m.wf = true) (ha : a < 256) :
    (m.set a v).wf = true :=
  Memory.wfFrom_set v hm (Nat.zero_le a) ha

/-- A read of the cell just written gives the byte written. -/
theorem Memory.byte_set_self {m : Memory} {lo : Nat} (a : Nat) (v : Byte) (hm : m.wfFrom lo = true) :
    (m.set a v).byte a = v := by
  induction m generalizing lo with
  | nil => by_cases hv : v = 0#8 <;> simp [Memory.set, Memory.byte, hv]
  | cons c t ih =>
    obtain ⟨k, w⟩ := c
    have hm' := hm
    simp only [Memory.wfFrom, Bool.and_eq_true, decide_eq_true_eq] at hm'
    simp only [Memory.set]
    split
    · split
      · have hk : k ≠ a := by omega
        simp only [Memory.byte, hk, if_false, ‹v = 0#8›]
        exact Memory.byte_below hm'.2 (by omega)
      · simp [Memory.byte]
    · split
      · split
        · subst_vars
          exact Memory.byte_below hm'.2 (by omega)
        · simp [Memory.byte]
      · have hk : k ≠ a := by omega
        simp only [Memory.byte, hk, if_false]
        exact ih hm'.2

/-- A write leaves every other cell alone. It needs no canonical form. -/
theorem Memory.byte_set_ne (m : Memory) {a b : Nat} (v : Byte) (h : b ≠ a) : (m.set a v).byte b = m.byte b := by
  induction m with
  | nil => by_cases hv : v = 0#8 <;> simp [Memory.set, Memory.byte, hv, h.symm]
  | cons c t ih =>
    obtain ⟨k, w⟩ := c
    simp only [Memory.set]
    split
    · split <;> simp [Memory.byte, h.symm]
    · split
      · subst_vars
        split <;> simp [Memory.byte, h.symm]
      · simp only [Memory.byte, ih]

/-- Everything `memRead` can do (R51). -/
theorem memRead_inRange {addr : Int} (s : State) (h0 : 0 ≤ addr) (h1 : addr < 256) :
    memRead addr s = .ok (s.mem.byte addr.toNat) := by
  have : ¬ (addr < 0 ∨ (Config.memSize : Int) ≤ addr) := by simp only [Config.memSize]; omega
  simp only [memRead, this, if_false]

theorem memRead_outOfRange {addr : Int} (s : State) (h : addr < 0 ∨ 256 ≤ addr) :
    memRead addr s = .error (.addressOutOfRange addr) := by
  have : addr < 0 ∨ (Config.memSize : Int) ≤ addr := by simp only [Config.memSize]; omega
  simp only [memRead, this, if_true]

/-- Everything `memWrite` can do (R51). -/
theorem memWrite_inRange {addr : Int} (v : Byte) (s : State) (h0 : 0 ≤ addr) (h1 : addr < 256) :
    memWrite addr v s = .ok { s with mem := s.mem.set addr.toNat v } := by
  have : ¬ (addr < 0 ∨ (Config.memSize : Int) ≤ addr) := by simp only [Config.memSize]; omega
  simp only [memWrite, this, if_false]

theorem memWrite_outOfRange {addr : Int} (v : Byte) (s : State) (h : addr < 0 ∨ 256 ≤ addr) :
    memWrite addr v s = .error (.addressOutOfRange addr) := by
  have : addr < 0 ∨ (Config.memSize : Int) ≤ addr := by simp only [Config.memSize]; omega
  simp only [memWrite, this, if_true]

/-- A byte is always an address: a read at it cannot fault (R54). -/
theorem memRead_byte (a : Byte) (s : State) : memRead (a.toNat : Int) s = .ok (s.mem.byte a.toNat) := by
  have := a.isLt
  exact memRead_inRange s (by omega) (by omega)

/-- A byte is always an address: a write at it cannot fault (R54). -/
theorem memWrite_byte (a v : Byte) (s : State) :
    memWrite (a.toNat : Int) v s = .ok { s with mem := s.mem.set a.toNat v } := by
  have := a.isLt
  exact memWrite_inRange v s (by omega) (by omega)

/-- A bounds-checked write keeps the canonical form. -/
theorem memWrite_wf {addr : Int} {v : Byte} {s t : State} (h : memWrite addr v s = .ok t) (hs : s.mem.wf = true) :
    t.mem.wf = true := by
  by_cases hr : addr < 0 ∨ 256 ≤ addr
  · rw [memWrite_outOfRange v s hr] at h
    cases h
  · rw [memWrite_inRange v s (by omega) (by omega)] at h
    cases h
    exact Memory.wf_set v hs (by omega)

end Sys2Proof.Machine
end

