-- ==== Sys2Proof/Laws/State.lean ====
section
/-! SUPPORT. One lemma per field per named update of State, each true by `rfl`. -/

namespace Sys2Proof.Machine

variable (s : State)

/-! ### setReg -/

@[simp] theorem State.setReg_mem (i : Fin 8) (v : Byte) : (s.setReg i v).mem = s.mem := rfl
@[simp] theorem State.setReg_regs (i : Fin 8) (v : Byte) : (s.setReg i v).regs = s.regs.set i v := rfl
@[simp] theorem State.setReg_fl (i : Fin 8) (v : Byte) : (s.setReg i v).fl = s.fl := rfl
@[simp] theorem State.setReg_pc (i : Fin 8) (v : Byte) : (s.setReg i v).pc = s.pc := rfl
@[simp] theorem State.setReg_rs (i : Fin 8) (v : Byte) : (s.setReg i v).rs = s.rs := rfl
@[simp] theorem State.setReg_fr (i : Fin 8) (v : Byte) : (s.setReg i v).fr = s.fr := rfl
@[simp] theorem State.setReg_out (i : Fin 8) (v : Byte) : (s.setReg i v).out = s.out := rfl
@[simp] theorem State.setReg_spReset (i : Fin 8) (v : Byte) : (s.setReg i v).spReset = s.spReset := rfl
@[simp] theorem State.setReg_port (i : Fin 8) (v : Byte) : (s.setReg i v).port = s.port := rfl

/-! ### setSp -/

@[simp] theorem State.setSp_mem (v : Byte) : (s.setSp v).mem = s.mem := rfl
@[simp] theorem State.setSp_regs (v : Byte) : (s.setSp v).regs = s.regs.set 7 v := rfl
@[simp] theorem State.setSp_fl (v : Byte) : (s.setSp v).fl = s.fl := rfl
@[simp] theorem State.setSp_pc (v : Byte) : (s.setSp v).pc = s.pc := rfl
@[simp] theorem State.setSp_rs (v : Byte) : (s.setSp v).rs = s.rs := rfl
@[simp] theorem State.setSp_fr (v : Byte) : (s.setSp v).fr = s.fr := rfl
@[simp] theorem State.setSp_out (v : Byte) : (s.setSp v).out = s.out := rfl
@[simp] theorem State.setSp_spReset (v : Byte) : (s.setSp v).spReset = s.spReset := rfl
@[simp] theorem State.setSp_port (v : Byte) : (s.setSp v).port = s.port := rfl

/-! ### advance -/

@[simp] theorem State.advance_mem (n : Nat) : (s.advance n).mem = s.mem := rfl
@[simp] theorem State.advance_regs (n : Nat) : (s.advance n).regs = s.regs := rfl
@[simp] theorem State.advance_fl (n : Nat) : (s.advance n).fl = s.fl := rfl
@[simp] theorem State.advance_pc (n : Nat) : (s.advance n).pc = s.pc + BitVec.ofNat 9 n := rfl
@[simp] theorem State.advance_rs (n : Nat) : (s.advance n).rs = s.rs := rfl
@[simp] theorem State.advance_fr (n : Nat) : (s.advance n).fr = s.fr := rfl
@[simp] theorem State.advance_out (n : Nat) : (s.advance n).out = s.out := rfl
@[simp] theorem State.advance_spReset (n : Nat) : (s.advance n).spReset = s.spReset := rfl
@[simp] theorem State.advance_port (n : Nat) : (s.advance n).port = s.port := rfl

/-! ### jump -/

@[simp] theorem State.jump_mem (v : Byte) : (s.jump v).mem = s.mem := rfl
@[simp] theorem State.jump_regs (v : Byte) : (s.jump v).regs = s.regs := rfl
@[simp] theorem State.jump_fl (v : Byte) : (s.jump v).fl = s.fl := rfl
@[simp] theorem State.jump_pc (v : Byte) : (s.jump v).pc = zext9 v := rfl
@[simp] theorem State.jump_rs (v : Byte) : (s.jump v).rs = s.rs := rfl
@[simp] theorem State.jump_fr (v : Byte) : (s.jump v).fr = s.fr := rfl
@[simp] theorem State.jump_out (v : Byte) : (s.jump v).out = s.out := rfl
@[simp] theorem State.jump_spReset (v : Byte) : (s.jump v).spReset = s.spReset := rfl
@[simp] theorem State.jump_port (v : Byte) : (s.jump v).port = s.port := rfl

/-! ### emit -/

@[simp] theorem State.emit_mem (v : Byte) : (s.emit v).mem = s.mem := rfl
@[simp] theorem State.emit_regs (v : Byte) : (s.emit v).regs = s.regs := rfl
@[simp] theorem State.emit_fl (v : Byte) : (s.emit v).fl = s.fl := rfl
@[simp] theorem State.emit_pc (v : Byte) : (s.emit v).pc = s.pc := rfl
@[simp] theorem State.emit_rs (v : Byte) : (s.emit v).rs = s.rs := rfl
@[simp] theorem State.emit_fr (v : Byte) : (s.emit v).fr = s.fr := rfl
@[simp] theorem State.emit_out (v : Byte) : (s.emit v).out = s.out ++ [v] := rfl
@[simp] theorem State.emit_spReset (v : Byte) : (s.emit v).spReset = s.spReset := rfl
@[simp] theorem State.emit_port (v : Byte) : (s.emit v).port = s.port := rfl

/-! ### setFl -/

@[simp] theorem State.setFl_mem (f : Flags) : (s.setFl f).mem = s.mem := rfl
@[simp] theorem State.setFl_regs (f : Flags) : (s.setFl f).regs = s.regs := rfl
@[simp] theorem State.setFl_fl (f : Flags) : (s.setFl f).fl = f := rfl
@[simp] theorem State.setFl_pc (f : Flags) : (s.setFl f).pc = s.pc := rfl
@[simp] theorem State.setFl_rs (f : Flags) : (s.setFl f).rs = s.rs := rfl
@[simp] theorem State.setFl_fr (f : Flags) : (s.setFl f).fr = s.fr := rfl
@[simp] theorem State.setFl_out (f : Flags) : (s.setFl f).out = s.out := rfl
@[simp] theorem State.setFl_spReset (f : Flags) : (s.setFl f).spReset = s.spReset := rfl
@[simp] theorem State.setFl_port (f : Flags) : (s.setFl f).port = s.port := rfl

/-! ### halt -/

@[simp] theorem State.halt_mem : s.halt.mem = s.mem := rfl
@[simp] theorem State.halt_regs : s.halt.regs = s.regs := rfl
@[simp] theorem State.halt_fl : s.halt.fl = s.fl := rfl
@[simp] theorem State.halt_pc : s.halt.pc = s.pc := rfl
@[simp] theorem State.halt_rs : s.halt.rs = .halted := rfl
@[simp] theorem State.halt_fr : s.halt.fr = s.fr := rfl
@[simp] theorem State.halt_out : s.halt.out = s.out := rfl
@[simp] theorem State.halt_spReset : s.halt.spReset = s.spReset := rfl
@[simp] theorem State.halt_port : s.halt.port = s.port := rfl

/-! ### raiseFault -/

@[simp] theorem raiseFault_mem (c : FaultCause) : (raiseFault c s).mem = s.mem := rfl
@[simp] theorem raiseFault_regs (c : FaultCause) : (raiseFault c s).regs = s.regs := rfl
@[simp] theorem raiseFault_fl (c : FaultCause) : (raiseFault c s).fl = s.fl := rfl
@[simp] theorem raiseFault_pc (c : FaultCause) : (raiseFault c s).pc = s.pc := rfl
@[simp] theorem raiseFault_rs (c : FaultCause) : (raiseFault c s).rs = .faulted := rfl
@[simp] theorem raiseFault_fr (c : FaultCause) : (raiseFault c s).fr = ⟨some c, s.pc⟩ := rfl
@[simp] theorem raiseFault_out (c : FaultCause) : (raiseFault c s).out = s.out := rfl
@[simp] theorem raiseFault_spReset (c : FaultCause) : (raiseFault c s).spReset = s.spReset := rfl
@[simp] theorem raiseFault_port (c : FaultCause) : (raiseFault c s).port = s.port := rfl

/-! ### reply -/

@[simp] theorem State.reply_mem (r : HostReply) : (s.reply r).mem = s.mem := rfl
@[simp] theorem State.reply_regs (r : HostReply) : (s.reply r).regs = s.regs := rfl
@[simp] theorem State.reply_fl (r : HostReply) : (s.reply r).fl = s.fl := rfl
@[simp] theorem State.reply_pc (r : HostReply) : (s.reply r).pc = s.pc := rfl
@[simp] theorem State.reply_rs (r : HostReply) : (s.reply r).rs = s.rs := rfl
@[simp] theorem State.reply_fr (r : HostReply) : (s.reply r).fr = s.fr := rfl
@[simp] theorem State.reply_out (r : HostReply) : (s.reply r).out = s.out := rfl
@[simp] theorem State.reply_spReset (r : HostReply) : (s.reply r).spReset = s.spReset := rfl
@[simp] theorem State.reply_port (r : HostReply) : (s.reply r).port = { s.port with replies := s.port.replies ++ [r] } := rfl

/-! ### setPending -/

@[simp] theorem State.setPending_mem (q : List (Option HostCmd)) : (s.setPending q).mem = s.mem := rfl
@[simp] theorem State.setPending_regs (q : List (Option HostCmd)) : (s.setPending q).regs = s.regs := rfl
@[simp] theorem State.setPending_fl (q : List (Option HostCmd)) : (s.setPending q).fl = s.fl := rfl
@[simp] theorem State.setPending_pc (q : List (Option HostCmd)) : (s.setPending q).pc = s.pc := rfl
@[simp] theorem State.setPending_rs (q : List (Option HostCmd)) : (s.setPending q).rs = s.rs := rfl
@[simp] theorem State.setPending_fr (q : List (Option HostCmd)) : (s.setPending q).fr = s.fr := rfl
@[simp] theorem State.setPending_out (q : List (Option HostCmd)) : (s.setPending q).out = s.out := rfl
@[simp] theorem State.setPending_spReset (q : List (Option HostCmd)) : (s.setPending q).spReset = s.spReset := rfl
@[simp] theorem State.setPending_port (q : List (Option HostCmd)) : (s.setPending q).port = { s.port with pending := q } := rfl

/-! ### noteLoadRefused -/

@[simp] theorem State.noteLoadRefused_mem : s.noteLoadRefused.mem = s.mem := rfl
@[simp] theorem State.noteLoadRefused_regs : s.noteLoadRefused.regs = s.regs := rfl
@[simp] theorem State.noteLoadRefused_fl : s.noteLoadRefused.fl = s.fl := rfl
@[simp] theorem State.noteLoadRefused_pc : s.noteLoadRefused.pc = s.pc := rfl
@[simp] theorem State.noteLoadRefused_rs : s.noteLoadRefused.rs = s.rs := rfl
@[simp] theorem State.noteLoadRefused_fr : s.noteLoadRefused.fr = s.fr := rfl
@[simp] theorem State.noteLoadRefused_out : s.noteLoadRefused.out = s.out := rfl
@[simp] theorem State.noteLoadRefused_spReset : s.noteLoadRefused.spReset = s.spReset := rfl
@[simp] theorem State.noteLoadRefused_port : s.noteLoadRefused.port = { s.port with loadRefused := true } := rfl

end Sys2Proof.Machine
end

