-- ==== Sys2Proof/Laws/Regs.lean ====
section
/-! SUPPORT. The register file, the register-index check and the stack operations: each shared operation in the
equations that later proofs cite. -/

namespace Sys2Proof.Machine

/-- A register read after a write: the written register gives the value, every other one is as before (R21, R23). -/
theorem RegFile.get_set (r : RegFile) (i j : Fin 8) (v : Byte) :
    (r.set i v).get j = if j = i then v else r.get j := by
  fin_cases i <;> fin_cases j <;> rfl

@[simp] theorem RegFile.get_set_self (r : RegFile) (i : Fin 8) (v : Byte) : (r.set i v).get i = v := by
  simp [RegFile.get_set]

theorem RegFile.get_set_ne (r : RegFile) {i j : Fin 8} (v : Byte) (h : j ≠ i) : (r.set i v).get j = r.get j := by
  simp [RegFile.get_set, h]

/-- The later of two writes to one register stands. -/
theorem RegFile.set_set (r : RegFile) (i : Fin 8) (v w : Byte) : (r.set i v).set i w = r.set i w := by
  fin_cases i <;> rfl

theorem State.reg_eq (s : State) (i : Fin 8) : s.reg i = s.regs.get i := rfl

/-- SP is R7 (R22). -/
theorem State.sp_eq (s : State) : s.sp = s.regs.get 7 := rfl

/-- An index in 0..7 passes the check of R106. -/
theorem checkReg_names {a : Byte} {i : Fin 8} (h : a.toNat = i.val) : checkReg a = .ok i := by
  have hlt : a.toNat < Config.numRegs := by simp only [Config.numRegs]; omega
  simp only [checkReg, hlt, dite_true]
  exact congrArg _ (Fin.ext h)

/-- An index in 8..255 fails it. -/
theorem checkReg_outOfRange {a : Byte} (h : 8 ≤ a.toNat) : checkReg a = .error (.registerOutOfRange a) := by
  have hlt : ¬ a.toNat < Config.numRegs := by simp only [Config.numRegs]; omega
  simp only [checkReg, hlt, dite_false]

/-- An operand byte names a register or fails the check. -/
theorem checkReg_cases (a : Byte) :
    (∃ i : Fin 8, a.toNat = i.val ∧ checkReg a = .ok i) ∨
      (8 ≤ a.toNat ∧ checkReg a = .error (.registerOutOfRange a)) := by
  by_cases h : a.toNat < 8
  · exact .inl ⟨⟨a.toNat, h⟩, rfl, checkReg_names rfl⟩
  · exact .inr ⟨by omega, checkReg_outOfRange (by omega)⟩

theorem spDec_zero {s : State} (h : s.sp = 0#8) : spDec s = .error (.addressOutOfRange (-1)) := by
  simp only [spDec, h, if_true]

theorem spDec_pos {s : State} (h : s.sp ≠ 0#8) : spDec s = .ok (s.sp - 1) := by
  simp only [spDec, h, if_false]

theorem spInc_top {s : State} (h : s.sp = 255#8) : spInc s = .error (.addressOutOfRange 256) := by
  simp only [spInc, h, if_true]

theorem spInc_below {s : State} (h : s.sp ≠ 255#8) : spInc s = .ok (s.sp + 1) := by
  simp only [spInc, h, if_false]

/-- Everything a push can do (R170, R171): it fails only with SP = 0; else SP is one lower and points at the byte. -/
theorem pushByte_zero (v : Byte) {s : State} (h : s.sp = 0#8) :
    pushByte v s = .error (.addressOutOfRange (-1)) := by
  simp only [pushByte, spDec_zero h]
  rfl

theorem pushByte_pos (v : Byte) {s : State} (h : s.sp ≠ 0#8) :
    pushByte v s =
      .ok { s with regs := s.regs.set 7 (s.sp - 1), mem := s.mem.set (s.sp - 1).toNat v } := by
  simp only [pushByte, spDec_pos h]
  exact memWrite_byte _ _ _

/-- Everything a pop can do (R170, R171): it fails only with SP = 255; else it gives the byte at SP and SP is one
higher. -/
theorem popByte_top {s : State} (h : s.sp = 255#8) : popByte s = .error (.addressOutOfRange 256) := by
  simp only [popByte, spInc_top h, memRead_byte]
  rfl

theorem popByte_below {s : State} (h : s.sp ≠ 255#8) :
    popByte s = .ok (s.mem.byte s.sp.toNat, { s with regs := s.regs.set 7 (s.sp + 1) }) := by
  simp only [popByte, spInc_below h, memRead_byte]
  rfl

end Sys2Proof.Machine
end

