-- ==== Sys2Proof/Laws/Step.lean ====
section
/-! SUPPORT. What a fetch, a cycle and a step can do, each said once. -/

namespace Sys2Proof.Machine

theorem finish_ok (s t : State) : finish s (.ok t) = .next t := rfl

theorem finish_error (s : State) (c : FaultCause) : finish s (.error c) = .next (raiseFault c s) := rfl

/-- A fetch at PC below 254 latches the three bytes there (R101). -/
theorem fetch_inRange {s : State} (h : s.pc.toNat < 254) :
    fetch s =
      .ok ⟨s.mem.byte s.pc.toNat, s.mem.byte (s.pc.toNat + 1), s.mem.byte (s.pc.toNat + 2)⟩ := by
  simp only [fetch]
  rw [memRead_inRange s (by omega) (by omega), memRead_inRange s (by omega) (by omega),
    memRead_inRange s (by omega) (by omega)]
  rfl

/-- A fetch at PC from 254 to 256 fails at address 256 (R101, R54). -/
theorem fetch_outOfRange {s : State} (h : 254 ≤ s.pc.toNat) (h' : s.pc.toNat ≤ 256) :
    fetch s = .error (.addressOutOfRange 256) := by
  simp only [fetch]
  by_cases h2 : s.pc.toNat = 256
  · rw [memRead_outOfRange s (by omega), h2]
    rfl
  · rw [memRead_inRange s (by omega) (by omega)]
    by_cases h1 : s.pc.toNat = 255
    · rw [memRead_outOfRange s (by omega), h1]
      rfl
    · have h0 : s.pc.toNat = 254 := by omega
      rw [memRead_inRange s (by omega) (by omega), memRead_outOfRange s (by omega), h0]
      rfl

/-- Bytes placed for the next fetch are what it latches (R101). -/
theorem fetch_placeBytes {s : State} (x y z : Byte) (hs : s.mem.wf = true) :
    fetch (placeBytes s x y z) = .ok ⟨x, y, z⟩ := by
  obtain ⟨p, hp, hpc⟩ : ∃ p : Pc, p.toNat < 254 ∧ p = if s.pc.toNat < 254 then s.pc else 0 := by
    split
    · exact ⟨_, ‹_›, rfl⟩
    · exact ⟨0, by decide, rfl⟩
  have hq : (placeBytes s x y z).pc = p := by simp only [placeBytes, hpc]
  have hm : (placeBytes s x y z).mem =
      ((s.mem.set p.toNat x).set (p.toNat + 1) y).set (p.toNat + 2) z := by simp only [placeBytes, hpc]
  have w1 : (s.mem.set p.toNat x).wf = true := Memory.wf_set x hs (by omega)
  have w2 : ((s.mem.set p.toNat x).set (p.toNat + 1) y).wf = true := Memory.wf_set y w1 (by omega)
  rw [fetch_inRange (by rw [hq]; exact hp), hq, hm]
  rw [Memory.byte_set_ne _ z (by omega), Memory.byte_set_ne _ y (by omega), Memory.byte_set_self _ x hs,
    Memory.byte_set_ne _ z (by omega), Memory.byte_set_self _ y w1, Memory.byte_set_self _ z w2]

/-- Placing bytes keeps the canonical form of memory. -/
theorem placeBytes_wf {s : State} (x y z : Byte) (hs : s.mem.wf = true) : (placeBytes s x y z).mem.wf = true := by
  simp only [placeBytes]
  split
  · exact Memory.wf_set z (Memory.wf_set y (Memory.wf_set x hs (by omega)) (by omega)) (by omega)
  · exact Memory.wf_set z (Memory.wf_set y (Memory.wf_set x hs (by decide)) (by decide)) (by decide)

/-- The reset memory is canonical. -/
theorem reset_mem_wf (sp : Byte) : (State.resetWith sp).mem.wf = true := rfl

/-- What a cycle can do: nothing out of Running; else a fetch fault, an unknown opcode, or the decoded instruction. -/
theorem cycle_cases (s : State) :
    (s.rs ≠ .running ∧ cycle s = .next s) ∨
    (s.rs = .running ∧ ∃ c, fetch s = .error c ∧ cycle s = .next (raiseFault c s)) ∨
    (s.rs = .running ∧ ∃ l, fetch s = .ok l ∧ decode l = .error (.unknownOpcode l.ir) ∧
      cycle s = .next (raiseFault (.unknownOpcode l.ir) s)) ∨
    (s.rs = .running ∧ ∃ l i, fetch s = .ok l ∧ decode l = .ok i ∧ cycle s = exec i s) := by
  cases hr : s.rs with
  | idle => exact .inl ⟨by simp, by simp only [cycle, hr]⟩
  | halted => exact .inl ⟨by simp, by simp only [cycle, hr]⟩
  | faulted => exact .inl ⟨by simp, by simp only [cycle, hr]⟩
  | running =>
    right
    cases hf : fetch s with
    | error c => exact .inl ⟨rfl, c, rfl, by simp only [cycle, hr, hf]⟩
    | ok l =>
      right
      cases ho : decodeOpcode l.ir with
      | none =>
        have hd : decode l = .error (.unknownOpcode l.ir) := by simp only [decode, ho]
        exact .inl ⟨rfl, l, rfl, hd, by simp only [cycle, hr, hf, dispatch, hd]⟩
      | some op =>
        have hd : decode l = .ok (assemble op l.a l.b) := by simp only [decode, ho]
        exact .inr ⟨rfl, l, _, rfl, hd, by simp only [cycle, hr, hf, dispatch, hd]⟩

/-- What a step can do: serve the host's command, or run a cycle, with the schedule one entry shorter. -/
theorem step_cases (s : State) :
    (s.port.pending = [] ∧ step s = cycle s) ∨
    (∃ q, s.port.pending = none :: q ∧ step s = cycle (s.setPending q)) ∨
    (∃ c q, s.port.pending = some c :: q ∧ step s = hostCommand c (s.setPending q)) := by
  match hp : s.port.pending with
  | [] => exact .inl ⟨rfl, by simp only [step, hp]⟩
  | none :: q => exact .inr (.inl ⟨q, rfl, by simp only [step, hp]⟩)
  | some c :: q => exact .inr (.inr ⟨c, q, rfl, by simp only [step, hp]⟩)

/-- Every instruction answers a next state: a completed instruction or a fault taken from the state it began in. -/
theorem finish_next (s : State) (r : Except FaultCause State) :
    (∃ t, r = .ok t ∧ finish s r = .next t) ∨ (∃ c, r = .error c ∧ finish s r = .next (raiseFault c s)) := by
  cases r with
  | ok t => exact .inl ⟨t, rfl, rfl⟩
  | error c => exact .inr ⟨c, rfl, rfl⟩

end Sys2Proof.Machine
end

