-- ==== Sys2Proof/Safety.lean ====
section
/-! DEFINITION. What counts as a safe state and a safe run, and the words the statements use for the whole machine:
the range of a fault's information (R300), the invariant of every step, and the host's boot script (R351). -/

namespace Sys2Proof.Machine

/-- A state that has not faulted. A fault never counts as success (decision D6). -/
def Safe (s : State) : Prop := s.rs ≠ .faulted

/-- `k` steps from `s` end in a next state that is safe. -/
def SafeRun (k : Nat) (s : State) : Prop :=
  ∃ t : State, Sys2Proof.core.run k s = .next t ∧ Safe t

/-- The value range of FR.info for each kind (R300), with the byte at PC for an unknown opcode. -/
def causeFits (s : State) : FaultCause → Prop
  | .addressOutOfRange a => a = -1 ∨ a = 256
  | .registerOutOfRange i => 8 ≤ i.toNat
  | .unknownOpcode b => illegalOpcode b = true ∧ s.mem.byte s.pc.toNat = b

/-- FR once RS is Faulted: a cause in its range, and the PC, which stays at the faulting instruction (R33, R107). -/
def faultRecorded (s : State) : Prop :=
  ∃ c, s.fr = ⟨some c, s.pc⟩ ∧ causeFits s c

/-- What holds at reset and after every step, whatever the host sends. -/
structure StepInv (s : State) : Prop where
  /-- memory keeps its canonical form -/
  memory : s.mem.wf = true
  /-- the reachable values of PC are 0..256 (R26) -/
  pc : s.pc.toNat ≤ 256
  /-- FR is empty unless RS is Faulted (R33) -/
  noFault : s.rs ≠ .faulted → s.fr = .empty
  /-- FR records the fault once RS is Faulted (R33, R107, R300) -/
  fault : s.rs = .faulted → faultRecorded s
  /-- after a halt PC holds the address of the HLT, below 254 (R240) -/
  halted : s.rs = .halted → s.pc.toNat < 254 ∧ s.mem.byte s.pc.toNat = 0x01

/-- The host's loads of an image from address `n` up (R66). -/
def loadScript : Nat → List Byte → List (Option HostCmd)
  | _, [] => []
  | n, v :: rest => some (.load n v) :: loadScript (n + 1) rest

/-- The boot script of R351: reset, the image load from address 0, start. -/
def bootScript (image : List Byte) : List (Option HostCmd) :=
  some .reset :: (loadScript 0 image ++ [some .start])

end Sys2Proof.Machine
end

