-- ==== Sys2Proof/Certificates/Slice0/Obligations.lean ====
section
/-! DEFINITION. The statements for the provers. Each names the rule of spec/ it formalises; a statement that rests on a
decision or an inference the spec marks as its own says so, and its basis in OBLIGATIONS.json is 'derived'. -/

namespace Sys2Proof.Machine

/-! ### Words the statements share -/

/-- The operand byte `a` names register `i`: its value is in 0..7 (R24). -/
abbrev Names (a : Byte) (i : Fin 8) : Prop := a.toNat = i.val

/-- The core takes this step, not the host: no command waits. `s'` is `s` with the schedule entry used. -/
def CoreTurn (s s' : State) : Prop :=
  (s.port.pending = [] ∧ s' = s) ∨ ∃ q, s.port.pending = none :: q ∧ s' = s.setPending q

/-- The state in which a fault `c` of an instruction begun at `s` leaves the machine: only RS and FR differ
(R107, decision D7, log entry 9). -/
def faultedAt (c : FaultCause) (s : State) : State := { s with rs := .faulted, fr := ⟨some c, s.pc⟩ }

/-- The three bytes at PC. -/
def latchAt (s : State) : Latch :=
  ⟨s.mem.byte s.pc.toNat, s.mem.byte (s.pc.toNat + 1), s.mem.byte (s.pc.toNat + 2)⟩

/-- Every byte of memory reads as before. -/
def SameMemory (s t : State) : Prop := ∀ a : Nat, t.mem.byte a = s.mem.byte a

/-- Every register but those in `P` reads as before. -/
def SameRegsBut (P : Fin 8 → Prop) (s t : State) : Prop := ∀ j : Fin 8, ¬ P j → t.reg j = s.reg j

/-- SP_RESET and the host port are as before, and RS and FR are as before unless the instruction faulted, which then
changed nothing but RS and FR. -/
def ControlKept (s t : State) : Prop :=
  t.spReset = s.spReset ∧ t.port = s.port ∧
    ((t.rs = s.rs ∧ t.fr = s.fr) ∨ ∃ c, t = faultedAt c s)

/-- RegisterOutOfRange for one operand (R106, decision D8, log entry 11). -/
def regFault (a : Byte) : Option FaultCause := if 8 ≤ a.toNat then some (.registerOutOfRange a) else none

/-- The fault of a push at the low end of memory (R171). -/
def pushFault (s : State) : Option FaultCause :=
  if s.sp.toNat = 0 then some (.addressOutOfRange (-1)) else none

/-- The fault of a pop at the high end of memory (R171, decision D6, log entry 10). -/
def popFault (s : State) : Option FaultCause :=
  if s.sp.toNat = 255 then some (.addressOutOfRange 256) else none

/-- The table of R301, after fetch and decode, with the priorities of R108 (decision D9, log entry 11). A branch not
taken checks no register (R106, decision D8, log entry 11). -/
def faultTable : Instr → State → Option FaultCause
  | .ldi a _, _ => regFault a
  | .prn a, _ => regFault a
  | .jmp a, _ => regFault a
  | .mul a b, _ => (regFault a).or (regFault b)
  | .add a b, _ => (regFault a).or (regFault b)
  | .cmp a b, _ => (regFault a).or (regFault b)
  | .push a, s => (regFault a).or (pushFault s)
  | .pop a, s => (regFault a).or (popFault s)
  | .call a, s => (regFault a).or (pushFault s)
  | .ret, s => popFault s
  | .jeq a, s => if s.fl.e then regFault a else none
  | .jne a, s => if s.fl.e then none else regFault a
  | .hlt, _ => none

/-- The fault of one whole cycle, in the order of R108 (decision D9, log entry 11): fetch (R101, decision D5, log entry
10), opcode, operands, stack. -/
def cycleFault (s : State) : Option FaultCause :=
  if 254 ≤ s.pc.toNat then some (.addressOutOfRange 256)
  else
    match decode (latchAt s) with
    | .error _ => some (.unknownOpcode (latchAt s).ir)
    | .ok i => faultTable i s

/-- The next-PC table of R104 for an instruction that completed from `s` to `t`, with the arbiter of R105 written
out. The target of CALL is read after the SP write (R190). -/
def nextPcRule (i : Instr) (s t : State) : Prop :=
  match i with
  | .ldi _ _ => t.pc.toNat = s.pc.toNat + 3
  | .mul _ _ => t.pc.toNat = s.pc.toNat + 3
  | .add _ _ => t.pc.toNat = s.pc.toNat + 3
  | .cmp _ _ => t.pc.toNat = s.pc.toNat + 3
  | .prn _ => t.pc.toNat = s.pc.toNat + 2
  | .push _ => t.pc.toNat = s.pc.toNat + 2
  | .pop _ => t.pc.toNat = s.pc.toNat + 2
  | .call a => ∃ i, Names a i ∧ t.pc.toNat = (t.reg i).toNat
  | .jmp a => ∃ i, Names a i ∧ t.pc.toNat = (s.reg i).toNat
  | .jeq a => if s.fl.e = true then ∃ i, Names a i ∧ t.pc.toNat = (s.reg i).toNat else t.pc.toNat = s.pc.toNat + 2
  | .jne a => if s.fl.e = false then ∃ i, Names a i ∧ t.pc.toNat = (s.reg i).toNat else t.pc.toNat = s.pc.toNat + 2
  | .ret => t.pc.toNat = (s.mem.byte s.sp.toNat).toNat
  | .hlt => t.pc = s.pc

/-- The second column of R40's table: the run states in which a command is accepted; the read of OUT (R240) is accepted
as the table's reads are (log entry 19). -/
def hostAccepts : HostCmd → RunState → Bool
  | .reset, _ => true
  | .load _ _, rs => rs == .idle
  | .writeReg _ _, rs => rs == .idle
  | .writeFl _, rs => rs == .idle
  | .writePc _, rs => rs == .idle
  | .readMem _, rs => rs != .running
  | .readReg _, rs => rs != .running
  | .readFl, rs => rs != .running
  | .readPc, rs => rs != .running
  | .readOut, rs => rs != .running
  | .start, rs => rs == .idle

/-- The host port after a command: its schedule entry used and the answer `r` given. -/
def answered (s : State) (q : List (Option HostCmd)) (r : HostReply) : HostPort :=
  { s.port with pending := q, replies := s.port.replies ++ [r] }

/-- `s` with other values of the two flags no instruction consumes. -/
def withLessGreater (s : State) (l g : Bool) : State := { s with fl := { s.fl with l := l, g := g } }

end Sys2Proof.Machine

open Sys2Proof Sys2Proof.Machine

/-! ### Decoding and encoding -/

/-- R83: one word of every row, written from its opcode column, decodes to the instruction it stands for. -/
def Obligations.DecodeReadsTheTableWords : Prop :=
  decode ⟨0b10000010, 3, 42⟩ = .ok (.ldi 3 42) ∧ decode ⟨0b01000111, 7, 1⟩ = .ok (.prn 7) ∧
  decode ⟨0b10100010, 1, 2⟩ = .ok (.mul 1 2) ∧ decode ⟨0b10100000, 0, 9⟩ = .ok (.add 0 9) ∧
  decode ⟨0b01000101, 4, 0⟩ = .ok (.push 4) ∧ decode ⟨0b01000110, 255, 0⟩ = .ok (.pop 255) ∧
  decode ⟨0b01010000, 5, 8⟩ = .ok (.call 5) ∧ decode ⟨0b00010001, 6, 7⟩ = .ok .ret ∧
  decode ⟨0b10100111, 6, 2⟩ = .ok (.cmp 6 2) ∧ decode ⟨0b01010100, 3, 0⟩ = .ok (.jmp 3) ∧
  decode ⟨0b01010101, 2, 0⟩ = .ok (.jeq 2) ∧ decode ⟨0b01010110, 1, 0⟩ = .ok (.jne 1) ∧
  decode ⟨0b00000001, 9, 9⟩ = .ok .hlt

/-- R82: the whole opcode byte selects the instruction by an exact match; the operand count is fixed per opcode; no
later byte takes part; a byte that matches no row is rejected as unknown. -/
def Obligations.DecodeIsExactMatchOfOpcodeByte : Prop :=
  (∀ (l : Latch) (i : Instr), decode l = .ok i → l.ir = i.opcode.byte ∧ i.operands.length = i.opcode.operandCount) ∧
  (∀ (l : Latch) (op : Opcode), l.ir = op.byte → ∃ i, decode l = .ok i ∧ i.opcode = op) ∧
  (∀ l : Latch, (∀ op : Opcode, l.ir ≠ op.byte) → decode l = .error (.unknownOpcode l.ir)) ∧
  (∀ l l' : Latch, l.ir = l'.ir →
    ((decode l).toOption.map Instr.opcode) = ((decode l').toOption.map Instr.opcode))

/-- R86, R87 (the spec derives R86 from R83): a byte is rejected exactly when it is in the listed illegal ranges,
243 values in all, and no operand value makes an encoding illegal. -/
def Obligations.IllegalOpcodesAreExactlyTheListedRanges : Prop :=
  (∀ l : Latch, illegalOpcode l.ir = true ↔ decode l = .error (.unknownOpcode l.ir)) ∧
  (∀ l : Latch, illegalOpcode l.ir = false ↔ ∃ i, decode l = .ok i) ∧
  (List.range 256).countP (fun n => illegalOpcode (BitVec.ofNat 8 n)) = 243

/-- R85 (derived there from R83, and not used by the decoder): bits 7:6 are the operand count, bit 4 marks the five
instructions that write PC with a target, bit 5 marks ADD, MUL and CMP. -/
def Obligations.OpcodeBitsShowCountAndClass : Prop :=
  ∀ op : Opcode, op.byte.toNat / 64 = op.operandCount ∧
    (op.byte.getLsbD 4 = true ↔ op = .call ∨ op = .ret ∨ op = .jmp ∨ op = .jeq ∨ op = .jne) ∧
    (op.byte.getLsbD 5 = true ↔ op = .add ∨ op = .mul ∨ op = .cmp)

/-- R80, R81, R84, R88: decoding the encoding of any instruction, whatever bytes follow it, gives it back with every
operand; and an instruction decoded from fetched bytes encodes to a prefix of those bytes. -/
def Obligations.DecodeEncodeAgree : Prop :=
  (∀ (i : Instr) (x y : Byte), decode (Latch.ofBytes (encode i ++ [x, y])) = .ok i) ∧
  (∀ (l : Latch) (i : Instr), decode l = .ok i → encode i = [l.ir, l.a, l.b].take i.length ∧
    1 ≤ i.length ∧ i.length ≤ 3)

/-! ### Fetch, cycle and step -/

/-- R101 (decision D5): the fetch latches the bytes at PC, PC+1, PC+2; from 254 to 256 it fails at address 256
(log entry 10). -/
def Obligations.FetchReadsThreeCheckedBytes : Prop :=
  ∀ s : State,
    (s.pc.toNat ≤ 253 → fetch s = .ok (latchAt s)) ∧
    (254 ≤ s.pc.toNat → s.pc.toNat ≤ 256 → fetch s = .error (.addressOutOfRange 256))

/-- R101 to R103, R109: a step in Running in which the host sends nothing runs the instruction that the bytes at PC
decode to, from that state and with nothing added. -/
def Obligations.StepRunsTheDecodedInstruction : Prop :=
  ∀ (s s' : State) (i : Instr), CoreTurn s s' → s.rs = .running → s.pc.toNat ≤ 253 →
    decode (latchAt s) = .ok i → step s = exec i s'

/-- R102: if no row matches the opcode byte, the run ends in Faulted with that byte reported, and PC does not
advance. -/
def Obligations.UnknownOpcodeEndsTheRun : Prop :=
  ∀ s s' : State, CoreTurn s s' → s.rs = .running → s.pc.toNat ≤ 253 →
    (∀ op : Opcode, op.byte ≠ s.mem.byte s.pc.toNat) →
    step s = .next { s' with rs := .faulted, fr := ⟨some (.unknownOpcode (s.mem.byte s.pc.toNat)), s.pc⟩ }

/-- R301 (derived there): an instruction faults exactly when the table says so, with the fault the table names, changing
nothing but RS and FR; otherwise it completes, without a fault. It rests on decisions of the spec: that a fault changes
nothing else is R107, D7 (log entry 9); that POP and RET fault at SP = 255 is R171, D6 (log entry 10); when an index is
checked is R106, D8, and the order of a, b and stack R108, D9 (log entry 11). -/
def Obligations.InstructionFaultsExactlyByTheTable : Prop :=
  ∀ (i : Instr) (s : State),
    (∀ c, faultTable i s = some c → exec i s = .next (faultedAt c s)) ∧
    (faultTable i s = none → ∃ t, exec i s = .next t ∧ t.fr = s.fr ∧
      t.rs = (if i = .hlt then .halted else s.rs))

/-- R108 (decision D9, log entry 11): of several faults a cycle meets, the first in the order fetch, opcode, operand a,
operand b, stack is the one reported. It rests on more decisions of the spec: that a fault changes nothing but RS and FR
is R107, D7 (log entry 9); that all three fetch reads are checked is R101, D5, and that POP and RET fault at SP = 255 is
R171, D6 (log entry 10); when an index is checked is R106, D8 (log entry 11). -/
def Obligations.CycleReportsTheFirstFault : Prop :=
  ∀ s s' : State, CoreTurn s s' → s.rs = .running → s.pc.toNat ≤ 256 →
    (∀ c, cycleFault s = some c → step s = .next (faultedAt c s')) ∧
    (cycleFault s = none → ∃ t, step s = .next t ∧ t.rs ≠ .faulted ∧ t.fr = s.fr)

/-- R107 (decision D7, log entry 9): whenever a running instruction ends in Faulted, only RS and FR have changed, and
FR.pc is the PC of the instruction. -/
def Obligations.FaultsArePrecise : Prop :=
  ∀ (i : Instr) (s t : State), s.rs = .running → exec i s = .next t → t.rs = .faulted →
    ∃ c, t = { s with rs := .faulted, fr := ⟨some c, s.pc⟩ } ∧ t.pc = s.pc

/-- R104, R105: the PC after every completed instruction. -/
def Obligations.NextPcSelection : Prop :=
  ∀ (i : Instr) (s t : State), s.rs = .running → s.pc.toNat ≤ 253 → exec i s = .next t →
    (t.rs ≠ .faulted → nextPcRule i s t) ∧ (t.rs = .faulted → t.pc = s.pc)

/-- R111: a run ends only through HLT or one of the three faults; otherwise the next state is Running. -/
def Obligations.RunEndsOnlyByHaltOrFault : Prop :=
  ∀ s s' : State, CoreTurn s s' → s.rs = .running →
    ∃ t, step s = .next t ∧
      (t.rs = .running ∨
        (t.rs = .halted ∧ ∃ l, fetch s = .ok l ∧ l.ir = 0b00000001 ∧ t = { s' with rs := .halted }) ∨
        (t.rs = .faulted ∧
          ((∃ a, t.fr.cause = some (.addressOutOfRange a)) ∨ (∃ r, t.fr.cause = some (.registerOutOfRange r)) ∨
            (∃ b, t.fr.cause = some (.unknownOpcode b)))))

/-! ### One statement per instruction: its encoding, its effect, its faults -/

/-- R140: LDI writes the immediate to R[a] and advances PC by 3; an index from 8 up raises RegisterOutOfRange and
nothing is written. -/
def Obligations.LdiLoadsTheImmediate : Prop :=
  ∀ (a imm : Byte) (s : State),
    encode (.ldi a imm) = [0b10000010, a, imm] ∧
    (∀ i, Names a i → exec (.ldi a imm) s = .next { s with regs := s.regs.set i imm, pc := s.pc + 3 }) ∧
    (8 ≤ a.toNat → exec (.ldi a imm) s = .next (faultedAt (.registerOutOfRange a) s))

/-- R145: PRN appends R[a] to OUT and advances PC by 2; an index from 8 up raises RegisterOutOfRange. -/
def Obligations.PrnEmitsTheRegister : Prop :=
  ∀ (a : Byte) (s : State),
    encode (.prn a) = [0b01000111, a] ∧
    (∀ i, Names a i → exec (.prn a) s = .next { s with out := s.out ++ [s.reg i], pc := s.pc + 2 }) ∧
    (8 ≤ a.toNat → exec (.prn a) s = .next (faultedAt (.registerOutOfRange a) s))

/-- R160: MUL writes the low byte of the product to R[a]; the indices are checked in the order a, b. -/
def Obligations.MulStoresTheLowByte : Prop :=
  ∀ (a b : Byte) (s : State),
    encode (.mul a b) = [0b10100010, a, b] ∧
    (∀ i j, Names a i → Names b j → exec (.mul a b) s =
      .next { s with regs := s.regs.set i (BitVec.ofNat 8 ((s.reg i).toNat * (s.reg j).toNat % 256)),
                     pc := s.pc + 3 }) ∧
    (8 ≤ a.toNat → exec (.mul a b) s = .next (faultedAt (.registerOutOfRange a) s)) ∧
    (a.toNat < 8 → 8 ≤ b.toNat → exec (.mul a b) s = .next (faultedAt (.registerOutOfRange b) s))

/-- R165: ADD writes the sum modulo 256 to R[a]; the indices are checked in the order a, b. -/
def Obligations.AddWrapsModulo256 : Prop :=
  ∀ (a b : Byte) (s : State),
    encode (.add a b) = [0b10100000, a, b] ∧
    (∀ i j, Names a i → Names b j → exec (.add a b) s =
      .next { s with regs := s.regs.set i (BitVec.ofNat 8 (((s.reg i).toNat + (s.reg j).toNat) % 256)),
                     pc := s.pc + 3 }) ∧
    (8 ≤ a.toNat → exec (.add a b) s = .next (faultedAt (.registerOutOfRange a) s)) ∧
    (a.toNat < 8 → 8 ≤ b.toNat → exec (.add a b) s = .next (faultedAt (.registerOutOfRange b) s))

/-- R175: PUSH decrements SP and stores R[a], read before SP changes, at the new SP; that `PUSH R7` stores the old SP
is decision D15 of the spec (log entry 12). That a fault changes nothing but RS and FR is R107, decision D7 of
the spec (log entry 9). -/
def Obligations.PushDecrementsThenStores : Prop :=
  ∀ (a : Byte) (s : State),
    encode (.push a) = [0b01000101, a] ∧
    (∀ i, Names a i → s.sp ≠ 0 → exec (.push a) s =
      .next { s with regs := s.regs.set 7 (s.sp - 1), mem := s.mem.set (s.sp - 1).toNat (s.reg i),
                     pc := s.pc + 2 }) ∧
    (8 ≤ a.toNat → exec (.push a) s = .next (faultedAt (.registerOutOfRange a) s)) ∧
    (a.toNat < 8 → s.sp = 0 → exec (.push a) s = .next (faultedAt (.addressOutOfRange (-1)) s))

/-- R180: POP reads the byte at SP, increments SP and then writes R[a]; that `POP R7` leaves the popped byte is
decision D15 of the spec (log entry 12), the fault at SP = 255 its decision D6 (log entry 10). That a fault changes
nothing but RS and FR is R107, decision D7 of the spec (log entry 9). -/
def Obligations.PopLoadsThenIncrements : Prop :=
  ∀ (a : Byte) (s : State),
    encode (.pop a) = [0b01000110, a] ∧
    (∀ i, Names a i → s.sp ≠ 255 → exec (.pop a) s =
      .next { s with regs := (s.regs.set 7 (s.sp + 1)).set i (s.mem.byte s.sp.toNat), pc := s.pc + 2 }) ∧
    (8 ≤ a.toNat → exec (.pop a) s = .next (faultedAt (.registerOutOfRange a) s)) ∧
    (a.toNat < 8 → s.sp = 255 → exec (.pop a) s = .next (faultedAt (.addressOutOfRange 256) s))

/-- R190: CALL decrements SP, stores p + 2 at the new SP and jumps to R[a], read after the SP write. -/
def Obligations.CallPushesTheReturnAddress : Prop :=
  ∀ (a : Byte) (s : State), s.pc.toNat ≤ 253 →
    encode (.call a) = [0b01010000, a] ∧
    (∀ i, Names a i → s.sp ≠ 0 → exec (.call a) s =
      .next { s with regs := s.regs.set 7 (s.sp - 1),
                     mem := s.mem.set (s.sp - 1).toNat (BitVec.ofNat 8 (s.pc.toNat + 2)),
                     pc := ((s.regs.set 7 (s.sp - 1)).get i).setWidth 9 }) ∧
    (8 ≤ a.toNat → exec (.call a) s = .next (faultedAt (.registerOutOfRange a) s)) ∧
    (a.toNat < 8 → s.sp = 0 → exec (.call a) s = .next (faultedAt (.addressOutOfRange (-1)) s))

/-- R195: RET reads the byte at SP, increments SP and jumps to that byte; the fault at SP = 255 is decision D6 of the
spec (log entry 10). That a fault changes nothing but RS and FR is R107, decision D7 of
the spec (log entry 9). -/
def Obligations.RetPopsTheReturnAddress : Prop :=
  ∀ s : State,
    encode .ret = [0b00010001] ∧
    (s.sp ≠ 255 → exec .ret s =
      .next { s with regs := s.regs.set 7 (s.sp + 1), pc := (s.mem.byte s.sp.toNat).setWidth 9 }) ∧
    (s.sp = 255 → exec .ret s = .next (faultedAt (.addressOutOfRange 256) s))

/-- R210: CMP sets Equal, Less and Greater from the unsigned comparison and advances PC by 3; the indices are checked
in the order a, b, and a faulting CMP writes no flag. -/
def Obligations.CmpSetsAllThreeFlags : Prop :=
  ∀ (a b : Byte) (s : State),
    encode (.cmp a b) = [0b10100111, a, b] ∧
    (∀ i j, Names a i → Names b j → exec (.cmp a b) s =
      .next { s with fl := ⟨decide ((s.reg i).toNat = (s.reg j).toNat), decide ((s.reg i).toNat < (s.reg j).toNat),
                            decide ((s.reg j).toNat < (s.reg i).toNat)⟩, pc := s.pc + 3 }) ∧
    (8 ≤ a.toNat → exec (.cmp a b) s = .next (faultedAt (.registerOutOfRange a) s)) ∧
    (a.toNat < 8 → 8 ≤ b.toNat → exec (.cmp a b) s = .next (faultedAt (.registerOutOfRange b) s))

/-- R215: JMP goes to R[a]; an index from 8 up raises RegisterOutOfRange. -/
def Obligations.JmpGoesToTheRegister : Prop :=
  ∀ (a : Byte) (s : State),
    encode (.jmp a) = [0b01010100, a] ∧
    (∀ i, Names a i → exec (.jmp a) s = .next { s with pc := (s.reg i).setWidth 9 }) ∧
    (8 ≤ a.toNat → exec (.jmp a) s = .next (faultedAt (.registerOutOfRange a) s))

/-- R220: JEQ goes to R[a] when FL.E is set, else to p + 2; that a branch not taken checks no register is decision D8
of the spec (log entry 11). That a fault changes nothing but RS and FR is R107, decision D7 of
the spec (log entry 9). -/
def Obligations.JeqJumpsWhenEqual : Prop :=
  ∀ (a : Byte) (s : State),
    encode (.jeq a) = [0b01010101, a] ∧
    (∀ i, Names a i → s.fl.e = true → exec (.jeq a) s = .next { s with pc := (s.reg i).setWidth 9 }) ∧
    (8 ≤ a.toNat → s.fl.e = true → exec (.jeq a) s = .next (faultedAt (.registerOutOfRange a) s)) ∧
    (s.fl.e = false → exec (.jeq a) s = .next { s with pc := s.pc + 2 })

/-- R225: JNE goes to R[a] when FL.E is clear, else to p + 2; that a branch not taken checks no register is decision D8
of the spec (log entry 11). That a fault changes nothing but RS and FR is R107, decision D7 of
the spec (log entry 9). -/
def Obligations.JneJumpsWhenNotEqual : Prop :=
  ∀ (a : Byte) (s : State),
    encode (.jne a) = [0b01010110, a] ∧
    (∀ i, Names a i → s.fl.e = false → exec (.jne a) s = .next { s with pc := (s.reg i).setWidth 9 }) ∧
    (8 ≤ a.toNat → s.fl.e = false → exec (.jne a) s = .next (faultedAt (.registerOutOfRange a) s)) ∧
    (s.fl.e = true → exec (.jne a) s = .next { s with pc := s.pc + 2 })

/-- R240: HLT halts with PC at the HLT; in the last bytes of memory, where its fetch fails, a HLT never halts; and
nothing resumes a halted core except `reset`. That the fetch checks all three reads is R101, decision D5 of the spec
(log entry 10); that only `reset` leaves Halted is R32, R110, its decision D28. That a fault changes nothing but RS
and FR is R107, decision D7 of the spec (log entry 9). -/
def Obligations.HltHaltsAtItsAddress : Prop :=
  (∀ s : State, encode .hlt = [0b00000001] ∧ exec .hlt s = .next { s with rs := .halted }) ∧
  (∀ s s' : State, CoreTurn s s' → s.rs = .running → s.pc.toNat = 254 ∨ s.pc.toNat = 255 →
    step s = .next (faultedAt (.addressOutOfRange 256) s')) ∧
  (∀ s t : State, s.rs = .halted → step s = .next t →
    (t.rs = .halted ∧ t.regs = s.regs ∧ t.fl = s.fl ∧ t.mem = s.mem ∧ t.out = s.out ∧ t.pc = s.pc) ∨
      ∃ q, s.port.pending = some .reset :: q)

/-! ### Frames -/

/-- R25, R30, R55, R103: LDI, MUL and ADD change no register but R[a], no flag, no byte of memory and no output.
That a fault changes nothing but RS and FR is R107, decision D7 of the spec (log entry 9). -/
def Obligations.RegisterWritersFrame : Prop :=
  ∀ (i : Instr) (a : Byte) (s t : State), (∃ b, i = .ldi a b ∨ i = .mul a b ∨ i = .add a b) →
    exec i s = .next t →
    SameRegsBut (Names a) s t ∧ t.fl = s.fl ∧ SameMemory s t ∧ t.out = s.out ∧ ControlKept s t

/-- R25, R29, R55, R103: PRN, CMP and the three jumps change no register and no byte of memory; only CMP changes the
flags, and only PRN the output, which it extends by at most one byte. That a fault changes nothing but RS and FR is
R107, decision D7 of the spec (log entry 9). -/
def Obligations.ReadersFrame : Prop :=
  ∀ (i : Instr) (s t : State),
    (∃ a b, i = .prn a ∨ i = .cmp a b ∨ i = .jmp a ∨ i = .jeq a ∨ i = .jne a) →
    exec i s = .next t →
    t.regs = s.regs ∧ SameMemory s t ∧ ((∀ a b, i ≠ .cmp a b) → t.fl = s.fl) ∧
      ((∀ a, i ≠ .prn a) → t.out = s.out) ∧ (t.out = s.out ∨ ∃ v, t.out = s.out ++ [v]) ∧ ControlKept s t

/-- R25, R55, R170: PUSH and CALL change R7 and the one byte at the decremented SP, which then holds R[a] or the
return address (R175, R190); where the decrement is refused no byte changes. That `PUSH R7` stores the old SP is
decision D15 of the spec (log entry 12); that a fault changes nothing but RS and FR is R107, decision D7 (log entry
9). -/
def Obligations.StoringInstructionsFrame : Prop :=
  ∀ (i : Instr) (a : Byte) (s t : State), (i = .push a ∨ i = .call a) → exec i s = .next t →
    SameRegsBut (fun j => j = 7) s t ∧ t.fl = s.fl ∧ t.out = s.out ∧ ControlKept s t ∧
    (∀ v, spDec s = .ok v → ∀ x : Nat, x ≠ v.toNat → t.mem.byte x = s.mem.byte x) ∧
    (∀ c, spDec s = .error c → SameMemory s t) ∧
    (∀ v r, spDec s = .ok v → s.mem.wf = true → Names a r →
      t.mem.byte v.toNat = if i = .push a then s.reg r else BitVec.ofNat 8 (s.pc.toNat + 2))

/-- R25, R55, R170, R180, R195: POP and RET change no byte of memory, no flag and no output; RET changes R7 alone, POP
R7 and R[a]. That a fault leaves R7 as it was and changes nothing but RS and FR is R107, decision D7 of the spec (log
entry 9). -/
def Obligations.PoppingInstructionsFrame : Prop :=
  ∀ (i : Instr) (s t : State), (i = .ret ∨ ∃ a, i = .pop a) → exec i s = .next t →
    SameRegsBut (fun j => j = 7 ∨ ∃ a, i = .pop a ∧ Names a j) s t ∧ t.fl = s.fl ∧ SameMemory s t ∧
      t.out = s.out ∧ ControlKept s t

/-! ### Rules about the whole machine -/

/-- R30: no instruction other than CMP writes the flags, and a faulting CMP writes nothing. -/
def Obligations.OnlyCompareWritesFlags : Prop :=
  ∀ (i : Instr) (s t : State), s.rs = .running → exec i s = .next t → t.fl ≠ s.fl →
    (∃ a b, i = .cmp a b) ∧ t.rs ≠ .faulted

/-- R31 (derived there from R210): after any CMP that completes exactly one flag is true. -/
def Obligations.CompareSetsExactlyOneFlag : Prop :=
  ∀ (a b : Byte) (s : State), a.toNat < 8 → b.toNat < 8 →
    ∃ t, exec (.cmp a b) s = .next t ∧ t.rs = s.rs ∧
      (t.fl = ⟨true, false, false⟩ ∨ t.fl = ⟨false, true, false⟩ ∨ t.fl = ⟨false, false, true⟩)

/-- R29, R105, R231: Less and Greater are consumed by no instruction. Two runs of one instruction from states that
differ only in L and G end alike in everything but L and G. -/
def Obligations.LessAndGreaterAreNeverConsumed : Prop :=
  ∀ (i : Instr) (s : State) (l g : Bool),
    ∃ t t', exec i s = .next t ∧ exec i (withLessGreater s l g) = .next t' ∧
      withLessGreater t' t.fl.l t.fl.g = t

/-- R37, R38 (decision D16): a step other than the host's reset appends at most one byte to OUT, drops none and
reorders none; only a PRN at PC appends. -/
def Obligations.OutputGrowsOneByteInOrder : Prop :=
  ∀ s t : State, step s = .next t → (∀ q, s.port.pending ≠ some .reset :: q) →
    t.out = s.out ++ outputEvents s t ∧
      (outputEvents s t = [] ∨ ∃ a i, s.rs = .running ∧ (∃ l, fetch s = .ok l ∧ decode l = .ok (.prn a)) ∧
        Names a i ∧ outputEvents s t = [s.reg i])

/-- R32 (decisions D3, D28): the run-state transitions. -/
def Obligations.RunStateTransitions : Prop :=
  ∀ s t : State, step s = .next t →
    ((∃ q, s.port.pending = some .reset :: q) ∧ t.rs = .idle) ∨
    ((∃ q, s.port.pending = some .start :: q) ∧ s.rs = .idle ∧ t.rs = .running) ∨
    ((∃ s', CoreTurn s s') ∧ s.rs = .running ∧ t.rs ≠ .idle) ∨
    t.rs = s.rs

/-- R110, R312 (decision D28): in Halted or Faulted no cycle runs. When the host sends nothing the state stays; any
command other than reset changes only the host port. -/
def Obligations.TerminalStatesStay : Prop :=
  ∀ s : State, s.rs = .halted ∨ s.rs = .faulted →
    (∀ s', CoreTurn s s' → step s = .next s') ∧
    (∀ c q, s.port.pending = some c :: q → c ≠ .reset → ∃ p, step s = .next { s with port := p })

/-- The invariant of every step, whatever the host sends: canonical memory, PC at most 256, FR empty or consistent
with the fault, a halted PC at its HLT (R26, R33, R54, R107, R240, R300; the clauses rest on decisions D4 to D7 and
D10). -/
def Obligations.EveryStepKeepsTheInvariant : Prop :=
  ∀ s t : State, StepInv s → step s = .next t → StepInv t

/-- The invariant holds at reset, for every value of SP_RESET. -/
def Obligations.ResetMeetsTheInvariant : Prop :=
  StepInv State.reset ∧ ∀ sp : Byte, StepInv (State.resetWith sp)

/-- Log entry 6, the model's choice: SP_RESET is a parameter, so no step changes it. -/
def Obligations.NoStepChangesSpReset : Prop :=
  ∀ s t : State, step s = .next t → t.spReset = s.spReset

/-- Log entries 1 and 4, the model's choice: every step answers a next state, but for a start after a refused load. -/
def Obligations.StepStopsOnlyOnStartAfterRefusedLoad : Prop :=
  ∀ s : State, (∃ t, step s = .next t) ∨
    (step s = .refused .startAfterRefusedLoad ∧ s.rs = .idle ∧ s.port.loadRefused = true ∧
      ∃ q, s.port.pending = some .start :: q)

/-! ### Memory and registers -/

/-- R51, R52: the bounds check is the whole validation; a write mutates exactly one cell; a read changes nothing (it
returns a byte and no state). -/
def Obligations.MemoryReadAndWrite : Prop :=
  ∀ (addr : Int) (v : Byte) (s : State),
    (addr < 0 ∨ 256 ≤ addr →
      memRead addr s = .error (.addressOutOfRange addr) ∧ memWrite addr v s = .error (.addressOutOfRange addr)) ∧
    (0 ≤ addr → addr < 256 → s.mem.wf = true →
      memRead addr s = .ok (s.mem.byte addr.toNat) ∧
      ∃ t, memWrite addr v s = .ok t ∧ t = { s with mem := t.mem } ∧ memRead addr t = .ok v ∧
        ∀ b : Int, b ≠ addr → memRead b t = memRead b s)

/-- The canonical form of memory (a choice of the model): canonical memories that read alike are equal data. -/
def Obligations.EqualContentsAreEqualMemories : Prop :=
  ∀ m n : Memory, m.wf = true → n.wf = true → (∀ a : Nat, a < 256 → m.byte a = n.byte a) → m = n

/-- R22, R23 (derived there): no register is hardwired, a write changes one register, and SP is R7. -/
def Obligations.RegistersHoldWhatWasWritten : Prop :=
  ∀ (s : State) (i j : Fin 8) (v : Byte),
    (s.setReg i v).reg i = v ∧ (j ≠ i → (s.setReg i v).reg j = s.reg j) ∧ s.sp = s.reg 7 ∧
      (s.setReg 7 v).sp = v

/-! ### Properties of instruction pairs -/

/-- R146 (derived there): LDI then PRN emits exactly the immediate. -/
def Obligations.LoadThenPrintEmitsTheImmediate : Prop :=
  ∀ (r v : Byte) (s : State), r.toNat < 8 →
    ∃ t u, exec (.ldi r v) s = .next t ∧ exec (.prn r) t = .next u ∧ u.out = s.out ++ [v]

/-- R150: ADD and MUL are exact modulo 256, fault on no value and write no flag. -/
def Obligations.ArithmeticIsModulo256 : Prop :=
  ∀ (a b : Byte) (i j : Fin 8) (s : State), Names a i → Names b j →
    (∃ t, exec (.add a b) s = .next t ∧ (t.reg i).toNat = ((s.reg i).toNat + (s.reg j).toNat) % 256 ∧
      t.fl = s.fl ∧ t.rs = s.rs) ∧
    (∃ t, exec (.mul a b) s = .next t ∧ (t.reg i).toNat = ((s.reg i).toNat * (s.reg j).toNat) % 256 ∧
      t.fl = s.fl ∧ t.rs = s.rs)

/-- R185 (derived there; for R7 it rests on decision D15): PUSH then POP of one register is a round trip. -/
def Obligations.PushThenPopIsRoundTrip : Prop :=
  ∀ (a : Byte) (i : Fin 8) (s : State), Names a i → s.mem.wf = true → 1 ≤ s.sp.toNat →
    ∃ t u, exec (.push a) s = .next t ∧ exec (.pop a) t = .next u ∧ u.reg i = s.reg i ∧ u.sp = s.sp ∧
      ∀ j, u.reg j = s.reg j

/-- R196 (derived there): a RET that finds SP and the byte at SP as a CALL at p left them goes to p + 2 and restores
SP. -/
def Obligations.ReturnGoesBehindTheCall : Prop :=
  ∀ (a : Byte) (i : Fin 8) (s : State), Names a i → s.mem.wf = true → s.pc.toNat ≤ 253 → 1 ≤ s.sp.toNat →
    ∃ t, exec (.call a) s = .next t ∧
      ∀ u : State, u.sp = t.sp → u.mem.byte u.sp.toNat = t.mem.byte u.sp.toNat →
        ∃ v, exec .ret u = .next v ∧ v.pc.toNat = s.pc.toNat + 2 ∧ v.sp = s.sp

/-- R230 (derived there): CMP then JEQ jumps when the values are equal, and falls through by exactly 2 when not. -/
def Obligations.CompareThenJeqBranchesOnEquality : Prop :=
  ∀ (a b c : Byte) (i j k : Fin 8) (s : State), Names a i → Names b j → Names c k → s.pc.toNat ≤ 253 →
    ∃ t u, exec (.cmp a b) s = .next t ∧ exec (.jeq c) t = .next u ∧
      (s.reg i = s.reg j → u.pc.toNat = (s.reg k).toNat) ∧
      (s.reg i ≠ s.reg j → u.pc = t.pc + 2 ∧ t.pc.toNat = s.pc.toNat + 3)

/-- R64, R355 (derived there): a byte that PUSH or CALL writes is what the next fetch reads at that address. The byte is
R[a] for PUSH (R175; for R7 the old SP, decision D15, log entry 12) and p + 2 for CALL (R190). -/
def Obligations.StoredCodeIsFetchedNext : Prop :=
  ∀ (i : Instr) (a : Byte) (s t : State) (k : Nat), (i = .push a ∨ i = .call a) → a.toNat < 8 → s.sp ≠ 0 →
    s.mem.wf = true → exec i s = .next t → t.pc.toNat ≤ 253 → k < 3 → (s.sp - 1).toNat = t.pc.toNat + k →
    ∃ l, fetch t = .ok l ∧
      [l.ir, l.a, l.b][k]? = some (t.mem.byte (s.sp - 1).toNat) ∧
      (∀ r, Names a r → i = .push a → t.mem.byte (s.sp - 1).toNat = s.reg r) ∧
      (i = .call a → t.mem.byte (s.sp - 1).toNat = BitVec.ofNat 8 (s.pc.toNat + 2))

/-- R356 (derived there): a PUSH or CALL that overwrites its own operand byte still uses the operand latched at
fetch. The bytes stored are those of R175 (for R7 the old SP, decision D15, log entry 12) and R190, and CALL reads its
target after the SP write (R190). -/
def Obligations.OperandsAreLatchedAtFetch : Prop :=
  ∀ (s s' : State) (a : Byte) (r : Fin 8), CoreTurn s s' → s.rs = .running → s.pc.toNat ≤ 253 →
    s.mem.wf = true → s.sp.toNat = s.pc.toNat + 2 → s.mem.byte (s.pc.toNat + 1) = a → Names a r →
    (s.mem.byte s.pc.toNat = 0b01000101 → ∃ t, step s = .next t ∧ t.rs = .running ∧
      t.mem.byte (s.pc.toNat + 1) = s.reg r ∧ t.pc.toNat = s.pc.toNat + 2) ∧
    (s.mem.byte s.pc.toNat = 0b01010000 → ∃ t, step s = .next t ∧ t.rs = .running ∧
      t.mem.byte (s.pc.toNat + 1) = BitVec.ofNat 8 (s.pc.toNat + 2) ∧ t.pc.toNat = (t.reg r).toNat)

/-! ### Reset, the host port and the other ports -/

/-- R42, R46, R65: on reset every memory cell becomes 0x00 and PC becomes 0. -/
def Obligations.ResetClearsMemoryAndPc : Prop :=
  (∀ a : Nat, State.reset.mem.byte a = 0x00) ∧ State.reset.pc = 0 ∧
  (∀ (s : State) (q : List (Option HostCmd)), s.port.pending = some .reset :: q →
    ∃ t, step s = .next t ∧ (∀ a : Nat, t.mem.byte a = 0x00) ∧ t.pc = 0)

/-- R350 with R43 to R47: the other reset values (decisions D3, D10 to D13: R0 to R6 are 0, SP is SP_RESET with
default 0xF4, flags clear, RS Idle, FR empty, OUT empty), reached from every state in one step. -/
def Obligations.ResetSetsEveryRegister : Prop :=
  State.reset.regs = ⟨0, 0, 0, 0, 0, 0, 0, 0xF4⟩ ∧ State.reset.fl = ⟨false, false, false⟩ ∧
  State.reset.rs = .idle ∧ State.reset.fr = ⟨none, 0⟩ ∧ State.reset.out = [] ∧
  (∀ (s : State) (q : List (Option HostCmd)), s.port.pending = some .reset :: q →
    step s = .next { mem := [], regs := ⟨0, 0, 0, 0, 0, 0, 0, s.spReset⟩, fl := ⟨false, false, false⟩, pc := 0,
                     rs := .idle, fr := ⟨none, 0⟩, out := [], spReset := s.spReset,
                     port := ⟨q, s.port.replies ++ [.accepted], false⟩ })

/-- R40 (decision D21; the read of OUT is log entry 19): a command in a run state not listed for it has no effect and is
answered as refused. -/
def Obligations.HostCommandOutOfItsStateIsRefused : Prop :=
  ∀ (s : State) (c : HostCmd) (q : List (Option HostCmd)), s.port.pending = some c :: q →
    hostAccepts c s.rs = false → step s = .next { s with port := answered s q .refused }

/-- R40, R48, R66 (decisions D1, D14, D20): what the load and write commands and start do in Idle. -/
def Obligations.HostWritesAndStartInIdle : Prop :=
  ∀ (s : State) (q : List (Option HostCmd)), s.rs = .idle →
    (∀ (n : Nat) v, n < 256 → s.port.pending = some (.load n v) :: q →
      step s = .next { s with mem := s.mem.set n v, port := answered s q .accepted }) ∧
    (∀ (addr : Int) v, addr < 0 ∨ 256 ≤ addr → s.port.pending = some (.load addr v) :: q →
      step s = .next { s with port := ⟨q, s.port.replies ++ [.addressOutOfRange addr], true⟩ }) ∧
    (∀ i v, s.port.pending = some (.writeReg i v) :: q →
      step s = .next { s with regs := s.regs.set i v, port := answered s q .accepted }) ∧
    (∀ f : Byte, s.port.pending = some (.writeFl f) :: q →
      step s = .next { s with fl := ⟨f.getLsbD 0, f.getLsbD 2, f.getLsbD 1⟩, port := answered s q .accepted }) ∧
    (∀ p : Fin 257, s.port.pending = some (.writePc p) :: q →
      ∃ t, step s = .next t ∧ t.pc.toNat = p.val ∧ t = { s with pc := t.pc, port := answered s q .accepted }) ∧
    (s.port.loadRefused = false → s.port.pending = some .start :: q →
      step s = .next { s with rs := .running, port := answered s q .accepted })

/-- R40, R48, R51, R240, R312 (decisions D1, D14, D21, D28): the reads return the value and change nothing, in every run
state but Running. R240 and R312 say that OUT is readable; the form of its read is log entry 19. -/
def Obligations.HostReadsReturnTheState : Prop :=
  ∀ (s : State) (q : List (Option HostCmd)), s.rs ≠ .running →
    (∀ n : Nat, n < 256 → s.port.pending = some (.readMem n) :: q →
      step s = .next { s with port := answered s q (.byteValue (s.mem.byte n)) }) ∧
    (∀ addr : Int, addr < 0 ∨ 256 ≤ addr → s.port.pending = some (.readMem addr) :: q →
      step s = .next { s with port := answered s q (.addressOutOfRange addr) }) ∧
    (∀ i, s.port.pending = some (.readReg i) :: q →
      step s = .next { s with port := answered s q (.byteValue (s.reg i)) }) ∧
    (s.port.pending = some .readFl :: q →
      ∃ v : Byte, step s = .next { s with port := answered s q (.byteValue v) } ∧
        v.toNat = s.fl.e.toNat + 2 * s.fl.g.toNat + 4 * s.fl.l.toNat) ∧
    (s.port.pending = some .readPc :: q →
      step s = .next { s with port := answered s q (.pcValue s.pc) }) ∧
    (s.port.pending = some .readOut :: q →
      step s = .next { s with port := answered s q (.outValue s.out) })

/-- R351 (decisions D3, D11 to D13): reset, the image load and start lead from every state to the launch state:
Running, PC 0, memory equal to the image and 0x00 above it, the registers and flags at their reset values. -/
def Obligations.BootReachesTheLaunchState : Prop :=
  ∀ (image : List Byte) (s : State), image.length ≤ 256 → s.port.pending = bootScript image →
    ∃ t : State, Sys2Proof.core.run (image.length + 2) s = .next t ∧ t.rs = .running ∧ t.pc = 0 ∧
      (∀ a : Nat, t.mem.byte a = image.getD a 0x00) ∧ t.mem.wf = true ∧
      t.regs = ⟨0, 0, 0, 0, 0, 0, 0, s.spReset⟩ ∧ t.fl = ⟨false, false, false⟩ ∧ t.out = [] ∧
      t.fr = ⟨none, 0⟩ ∧ t.port.pending = []

/-- R66, decision D20 and log entry 4, the model's choice: an image longer than memory has no run; the boot script
ends in the refusal. -/
def Obligations.LongImageHasNoRun : Prop :=
  ∀ (image : List Byte) (s : State), 256 < image.length → s.port.pending = bootScript image →
    Sys2Proof.core.run (image.length + 2) s = .refused .startAfterRefusedLoad

/-- R33, R39, R300 (decision D10): the status port shows the code and the 16-bit info of the fault just taken, and
code 0 with info 0 when RS is not Faulted. -/
def Obligations.StatusPortShowsTheFault : Prop :=
  (∀ s : State, s.rs ≠ .faulted → statusPort s = ⟨s.rs, 0, 0, s.fr.pc⟩) ∧
  (∀ s : State, statusPort (raiseFault (.addressOutOfRange (-1)) s) = ⟨.faulted, 1, 0xFFFF, s.pc⟩) ∧
  (∀ s : State, statusPort (raiseFault (.addressOutOfRange 256) s) = ⟨.faulted, 1, 0x0100, s.pc⟩) ∧
  (∀ (s : State) (r : Byte), ∃ n, statusPort (raiseFault (.registerOutOfRange r) s) = ⟨.faulted, 2, n, s.pc⟩ ∧
    n.toNat = r.toNat) ∧
  (∀ (s : State) (b : Byte), ∃ n, statusPort (raiseFault (.unknownOpcode b) s) = ⟨.faulted, 3, n, s.pc⟩ ∧
    n.toNat = b.toNat)

/-- R310 (decisions D1, D29): in a step in which the core runs a cycle the trace port shows PC, the three fetched
bytes and the registers before the effect; it shows nothing when the fetch faults or no cycle runs. -/
def Obligations.TracePortShowsEachGoodFetch : Prop :=
  ∀ s s' : State, CoreTurn s s' →
    (s.rs = .running → s.pc.toNat ≤ 253 →
      stepTrace s = some ⟨s.pc, (latchAt s).ir, (latchAt s).a, (latchAt s).b, s.regs⟩) ∧
    (s.rs = .running → 254 ≤ s.pc.toNat → s.pc.toNat ≤ 256 → stepTrace s = none) ∧
    (s.rs ≠ .running → stepTrace s = none)
end

