-- ==== Sys2Proof/Laws/Decode.lean ====
section
/-! SUPPORT. The opcode lookup in the equations that later proofs cite (R82). -/

namespace Sys2Proof

/-- The byte of a row selects that row. -/
theorem decodeOpcode_byte (op : Opcode) : decodeOpcode op.byte = some op := by
  cases op <;> rfl

/-- Only the byte of a row selects it. -/
theorem byte_of_decodeOpcode {ir : Byte} {op : Opcode} (h : decodeOpcode ir = some op) : op.byte = ir := by
  have hp := List.find?_some h
  simpa using hp

/-- A byte that is no row's selects nothing. -/
theorem decodeOpcode_none {ir : Byte} (h : ∀ op : Opcode, op.byte ≠ ir) : decodeOpcode ir = none := by
  simp only [decodeOpcode, List.find?_eq_none, beq_iff_eq]
  exact fun op _ => h op

/-- An assembled instruction has the opcode it was assembled for. -/
theorem opcode_assemble (op : Opcode) (a b : Byte) : (assemble op a b).opcode = op := by
  cases op <;> rfl

end Sys2Proof
end

