-- ==== Sys2Proof/Laws/HostPort.lean ====
section
/-! SUPPORT. What one host command can do, said once. -/

namespace Sys2Proof.Machine

/-- The architectural effect of a host command: a reset, nothing, or, in Idle, one write or a start (R40). -/
inductive HostEffect (s : State) : HostCmd → State → Prop where
  | reset : HostEffect s .reset (State.resetWith s.spReset)
  | none (c : HostCmd) (h : c ≠ .reset) : HostEffect s c s
  | load {n : Nat} (v : Byte) (h : s.rs = .idle) (hn : n < 256) :
      HostEffect s (.load n v) { s with mem := s.mem.set n v }
  | writeReg (i : Fin 8) (v : Byte) (h : s.rs = .idle) :
      HostEffect s (.writeReg i v) { s with regs := s.regs.set i v }
  | writeFl (f : Byte) (h : s.rs = .idle) : HostEffect s (.writeFl f) { s with fl := Flags.ofByte f }
  | writePc (p : Fin 257) (h : s.rs = .idle) : HostEffect s (.writePc p) { s with pc := BitVec.ofNat 9 p.val }
  | start (h : s.rs = .idle) : HostEffect s .start { s with rs := .running }

/-- Everything a host command can do: one of the effects above, with the host port written, or the refusal of a
start after a refused load. -/
theorem hostCommand_cases (c : HostCmd) (s : State) :
    (c = .start ∧ s.rs = .idle ∧ s.port.loadRefused = true ∧ hostCommand c s = .refused .startAfterRefusedLoad) ∨
    ∃ u p, HostEffect s c u ∧ hostCommand c s = .next { u with port := p } := by
  have write : ∀ (c : HostCmd) (f : State → State), c ≠ .reset → (s.rs = .idle → HostEffect s c (f s)) →
      ∃ u p, HostEffect s c u ∧
        (Host.Outcome.next (hostWrite f s) : Host.Outcome State Fault Refusal) = .next { u with port := p } := by
    intro c f hc hf
    by_cases h : s.rs = .idle
    · exact ⟨_, _, hf h, by simp only [hostWrite, h, if_true]; rfl⟩
    · exact ⟨_, _, .none c hc, by simp only [hostWrite, h, if_false]; rfl⟩
  have read : ∀ (c : HostCmd) (f : State → HostReply), c ≠ .reset →
      ∃ u p, HostEffect s c u ∧
        (Host.Outcome.next (hostRead f s) : Host.Outcome State Fault Refusal) = .next { u with port := p } := by
    intro c f hc
    by_cases h : hostMayRead s.rs = true
    · exact ⟨_, _, .none c hc, by simp only [hostRead, h, if_true]; rfl⟩
    · exact ⟨_, _, .none c hc, by simp only [hostRead, h]; rfl⟩
  cases c with
  | reset => exact .inr ⟨_, _, .reset, rfl⟩
  | load addr v =>
    right
    by_cases h : s.rs = .idle
    · by_cases hr : addr < 0 ∨ 256 ≤ addr
      · exact ⟨_, _, .none _ (by simp), by
          rw [hostCommand, hostLoad, if_pos h, memWrite_outOfRange v s hr]; rfl⟩
      · obtain ⟨n, rfl⟩ := Int.eq_ofNat_of_zero_le (show 0 ≤ addr by omega)
        exact ⟨_, _, .load v h (by omega), by
          simp only [hostCommand, hostLoad, h, if_true, memWrite_inRange v s (show 0 ≤ (n : Int) by omega) (by omega)]
          rfl⟩
    · exact ⟨_, _, .none _ (by simp), by simp only [hostCommand, hostLoad, h, if_false]; rfl⟩
  | writeReg i v => exact .inr (write _ _ (by simp) fun h => .writeReg i v h)
  | writeFl f => exact .inr (write _ _ (by simp) fun h => .writeFl f h)
  | writePc p => exact .inr (write _ _ (by simp) fun h => .writePc p h)
  | readMem addr => exact .inr (read _ _ (by simp))
  | readReg i => exact .inr (read _ _ (by simp))
  | readFl => exact .inr (read _ _ (by simp))
  | readPc => exact .inr (read _ _ (by simp))
  | readOut => exact .inr (read _ _ (by simp))
  | start =>
    by_cases h : s.rs = .idle
    · by_cases hl : s.port.loadRefused = true
      · exact .inl ⟨rfl, h, hl, by simp only [hostCommand, hostStart, h, hl, if_true]⟩
      · exact .inr ⟨_, _, .start h, by simp only [hostCommand, hostStart, h, hl, if_true]; rfl⟩
    · exact .inr ⟨_, _, .none _ (by simp), by simp only [hostCommand, hostStart, h, if_false]; rfl⟩

end Sys2Proof.Machine
end

