-- ==== Sys2Proof/Laws/Instr.lean ====
section
/-! SUPPORT. The forms that several instructions share, each in the equations that later proofs cite: the two-register
arithmetic, the jump to a register, the conditional jump, and the flags byte. -/

namespace Sys2Proof.Machine

/-- R160, R165: with both operands naming registers the result goes to the first and PC advances by 3. -/
theorem arithmetic_names (op : Nat → Nat → Nat) {a b : Byte} {i j : Fin 8} (s : State) (ha : a.toNat = i.val)
    (hb : b.toNat = j.val) :
    arithmetic op a b s =
      .ok ((s.setReg i (trunc8 (op (s.reg i).toNat (s.reg j).toNat))).advance 3) := by
  simp only [arithmetic, checkReg_names ha, checkReg_names hb]
  rfl

/-- R106: the operand `a` is checked first. -/
theorem arithmetic_first_outOfRange (op : Nat → Nat → Nat) {a : Byte} (b : Byte) (s : State) (ha : 8 ≤ a.toNat) :
    arithmetic op a b s = .error (.registerOutOfRange a) := by
  simp only [arithmetic, checkReg_outOfRange ha]
  rfl

/-- R106: then the operand `b`. -/
theorem arithmetic_second_outOfRange (op : Nat → Nat → Nat) {a b : Byte} {i : Fin 8} (s : State)
    (ha : a.toNat = i.val) (hb : 8 ≤ b.toNat) : arithmetic op a b s = .error (.registerOutOfRange b) := by
  simp only [arithmetic, checkReg_names ha, checkReg_outOfRange hb]
  rfl

/-- R215: the jump goes to the register's value. -/
theorem jumpToReg_names {a : Byte} {i : Fin 8} (s : State) (ha : a.toNat = i.val) :
    jumpToReg a s = .ok (s.jump (s.reg i)) := by
  simp only [jumpToReg, checkReg_names ha]
  rfl

theorem jumpToReg_outOfRange {a : Byte} (s : State) (ha : 8 ≤ a.toNat) :
    jumpToReg a s = .error (.registerOutOfRange a) := by
  simp only [jumpToReg, checkReg_outOfRange ha]
  rfl

/-- R220, R225: a taken branch is the jump, with its check. -/
theorem conditionalJump_taken {op : Opcode} (a : Byte) {s : State} (h : branchTaken op s.fl = true) :
    conditionalJump op a s = jumpToReg a s := by
  simp only [conditionalJump, h, if_true]

/-- R220, R225: a branch not taken advances by 2 and checks no register. -/
theorem conditionalJump_notTaken {op : Opcode} (a : Byte) {s : State} (h : branchTaken op s.fl = false) :
    conditionalJump op a s = .ok (s.advance 2) := by
  simp [conditionalJump, h]

/-- R105: the arbiter for JEQ and for JNE. -/
@[simp] theorem branchTaken_jeq (f : Flags) : branchTaken .jeq f = f.e := by simp [branchTaken]

@[simp] theorem branchTaken_jne (f : Flags) : branchTaken .jne f = !f.e := by simp [branchTaken]

/-- R48: the flags byte keeps all three flags. -/
@[simp] theorem Flags.ofByte_toByte (f : Flags) : Flags.ofByte f.toByte = f := by
  obtain ⟨e, l, g⟩ := f
  cases e <;> cases l <;> cases g <;> rfl

end Sys2Proof.Machine
end

