-- ==== Sys2Proof/Laws/PerInstr.lean ====
section
/-! SUPPORT. The per-instruction family `EncodeShape`: what the encoding of an instruction looks like (R80, R83,
R88). One lemma per constructor of Instr. -/

namespace Sys2Proof.Laws.EncodeShape

/-- The encoding begins with the instruction's opcode byte, is as long as R88 says, at most three bytes, and is
well-formed (R87). -/
def Statement (i : Instr) : Prop :=
  (encode i).head? = some i.opcode.byte ∧ (encode i).length = i.length ∧ i.length ≤ 3 ∧ i.wellFormed = true

theorem ldi (a imm : Byte) : Statement (.ldi a imm) := ⟨rfl, rfl, Nat.le_of_ble_eq_true rfl, rfl⟩
theorem prn (a : Byte) : Statement (.prn a) := ⟨rfl, rfl, Nat.le_of_ble_eq_true rfl, rfl⟩
theorem mul (a b : Byte) : Statement (.mul a b) := ⟨rfl, rfl, Nat.le_of_ble_eq_true rfl, rfl⟩
theorem add (a b : Byte) : Statement (.add a b) := ⟨rfl, rfl, Nat.le_of_ble_eq_true rfl, rfl⟩
theorem push (a : Byte) : Statement (.push a) := ⟨rfl, rfl, Nat.le_of_ble_eq_true rfl, rfl⟩
theorem pop (a : Byte) : Statement (.pop a) := ⟨rfl, rfl, Nat.le_of_ble_eq_true rfl, rfl⟩
theorem call (a : Byte) : Statement (.call a) := ⟨rfl, rfl, Nat.le_of_ble_eq_true rfl, rfl⟩
theorem ret : Statement .ret := ⟨rfl, rfl, Nat.le_of_ble_eq_true rfl, rfl⟩
theorem cmp (a b : Byte) : Statement (.cmp a b) := ⟨rfl, rfl, Nat.le_of_ble_eq_true rfl, rfl⟩
theorem jmp (a : Byte) : Statement (.jmp a) := ⟨rfl, rfl, Nat.le_of_ble_eq_true rfl, rfl⟩
theorem jeq (a : Byte) : Statement (.jeq a) := ⟨rfl, rfl, Nat.le_of_ble_eq_true rfl, rfl⟩
theorem jne (a : Byte) : Statement (.jne a) := ⟨rfl, rfl, Nat.le_of_ble_eq_true rfl, rfl⟩
theorem hlt : Statement .hlt := ⟨rfl, rfl, Nat.le_of_ble_eq_true rfl, rfl⟩

end Sys2Proof.Laws.EncodeShape
end

