-- ==== Sys2Proof/Tests/Slice0.lean ====
section
/-! SUPPORT. Tests of the model on values from outside it: the spec's encodings (R83), its vectors
(spec/95_test_vectors.md, named in each comment) and its examples; and one witness for the hypotheses of every
statement of Certificates/Slice0/Obligations.lean. -/

namespace Sys2Proof.Tests

open Sys2Proof Sys2Proof.Machine

/-! ### Helpers -/

/-- A running machine, else as after reset, with the PC and the listed cells of memory. -/
def machine (p : Pc) (m : Memory) : State := { State.reset with rs := .running, pc := p, mem := m }

/-- What `f` shows of the state after one step. -/
def afterStep {α : Type} (s : State) (f : State → α) : Option α :=
  match step s with
  | .next t => some (f t)
  | .fault _ => none
  | .refused _ => none

/-- What `f` shows of the state after one step of an idle machine to which the host sends `c`. -/
def afterCommand {α : Type} (s : State) (c : HostCmd) (f : State → α) : Option α :=
  afterStep (s.setPending [some c]) f

/-! ### Decoding: every row of R83, its word written out -/

theorem test_decode_ldi : decodeTableWord 24 0x2A0382 = some (.ldi 3 42) := by decide
theorem test_decode_prn : decodeTableWord 16 0x0747 = some (.prn 7) := by decide
theorem test_decode_mul : decodeTableWord 24 0x0201A2 = some (.mul 1 2) := by decide
theorem test_decode_add : decodeTableWord 24 0x0900A0 = some (.add 0 9) := by decide
theorem test_decode_push : decodeTableWord 16 0x0445 = some (.push 4) := by decide
theorem test_decode_pop : decodeTableWord 16 0xFF46 = some (.pop 255) := by decide
theorem test_decode_call : decodeTableWord 16 0x0550 = some (.call 5) := by decide
theorem test_decode_ret : decodeTableWord 8 0x11 = some .ret := by decide
theorem test_decode_cmp : decodeTableWord 24 0x0206A7 = some (.cmp 6 2) := by decide
theorem test_decode_jmp : decodeTableWord 16 0x0354 = some (.jmp 3) := by decide
theorem test_decode_jeq : decodeTableWord 16 0x0255 = some (.jeq 2) := by decide
theorem test_decode_jne : decodeTableWord 16 0x0156 = some (.jne 1) := by decide
theorem test_decode_hlt : decodeTableWord 8 0x01 = some .hlt := by decide

/-- Vector E15: the ends of the illegal ranges of R86 decode to nothing. -/
theorem test_decode_illegal :
    [0x00, 0x02, 0x10, 0x12, 0x44, 0x48, 0x4F, 0x51, 0x53, 0x57, 0x81, 0x83, 0x9F, 0xA1, 0xA3, 0xA6, 0xA8,
      0xFF].map (decodeTableWord 24) = List.replicate 18 none := by decide

/-- R89, R90: `LDI R0,8` is the bytes 10000010, 00000000, 00001000. -/
theorem test_encode_ldi : encode (.ldi 0 8) = [0b10000010, 0b00000000, 0b00001000] := by decide

/-! ### WellFormed: each check refuses an ill-formed term (no Instr is ill-formed, R87) -/

/-- R24: an operand 8 names no register. -/
theorem smoke_namesRegisters :
    (Instr.ldi 8 0).namesRegisters = false ∧ (Instr.add 7 255).namesRegisters = false ∧
      (Instr.ldi 7 255).namesRegisters = true ∧ Instr.ret.namesRegisters = true := by decide

/-- R86: 0x00 and its neighbours are illegal, the HLT byte between them is not. -/
theorem smoke_illegalOpcode :
    illegalOpcode 0x00 = true ∧ illegalOpcode 0x01 = false ∧ illegalOpcode 0x02 = true ∧
      illegalOpcode 0xA1 = true ∧ illegalOpcode 0xA2 = false := by decide

/-- R87: operands 8..255 are well-formed. -/
theorem smoke_wellFormed : (Instr.jeq 9).wellFormed = true := by decide

/-- The canonical form of memory refuses a listed zero, two cells out of order, and an address past the end. -/
theorem smoke_memory_wf :
    Memory.wf [(3, 0)] = false ∧ Memory.wf [(4, 1), (3, 1)] = false ∧ Memory.wf [(256, 1)] = false ∧
      Memory.wf [(3, 1), (255, 2)] = true := by decide

/-! ### One step of each instruction -/

/-- Vectors L1 and L6: LDI, also at the last fetchable PC. -/
theorem test_ldi : afterStep (machine 253 [(253, 0x82), (255, 5)]) (fun t => (t.regs.r0, t.pc, t.rs)) =
    some (5, 256, .running) := by decide

/-- Vector L4. -/
theorem test_ldi_register_8 :
    afterStep (machine 0 [(0, 0x82), (1, 8), (2, 1)]) (fun t => (t.rs, t.fr, t.pc)) =
      some (.faulted, ⟨some (.registerOutOfRange 8), 0⟩, 0) := by decide

/-- Vector L10: PRN R7 emits SP_RESET. -/
theorem test_prn : afterStep (machine 0 [(0, 0x47), (1, 7)]) (fun t => (t.out, t.pc)) = some ([244], 2) := by decide

/-- Vector L11. -/
theorem test_prn_register_9 :
    afterStep (machine 0 [(0, 0x47), (1, 9)]) (fun t => (t.rs, t.fr.cause, t.out)) =
      some (.faulted, some (.registerOutOfRange 9), []) := by decide

/-- Vector A10: 255 * 255 = 65025. -/
theorem test_mul :
    afterStep { machine 0 [(0, 0xA2), (2, 1)] with regs := ⟨255, 255, 0, 0, 0, 0, 0, 0⟩ }
      (fun t => (t.regs.r0, t.regs.r1, t.pc)) = some (1, 255, 3) := by decide

/-- Vector A14: a squared register. -/
theorem test_mul_square :
    afterStep { machine 0 [(0, 0xA2), (1, 2), (2, 2)] with regs := ⟨0, 0, 20, 0, 0, 0, 0, 0⟩ }
      (fun t => t.regs.r2) = some 144 := by decide

/-- Vectors A1, A19: 255 + 1 = 0, and no flag changes. -/
theorem test_add :
    afterStep { machine 0 [(0, 0xA0), (2, 1)] with regs := ⟨255, 1, 0, 0, 0, 0, 0, 0⟩, fl := ⟨false, true, false⟩ }
      (fun t => (t.regs.r0, t.regs.r1, t.fl)) = some (0, 1, ⟨false, true, false⟩) := by decide

/-- Vector A17: `a` is checked first. -/
theorem test_add_both_out_of_range :
    afterStep (machine 0 [(0, 0xA0), (1, 9), (2, 10)]) (fun t => t.fr.cause) =
      some (some (.registerOutOfRange 9)) := by decide

/-- Vector S2: PUSH R7 stores the old SP. -/
theorem test_push_sp :
    afterStep (machine 0 [(0, 0x45), (1, 7)]) (fun t => (t.regs.r7, t.mem.byte 0xF3, t.pc)) =
      some (0xF3, 0xF4, 2) := by decide

/-- Vector S3, with the status port's info. -/
theorem test_push_at_zero :
    afterStep { machine 9 [(9, 0x45)] with regs := ⟨7, 0, 0, 0, 0, 0, 0, 0⟩ }
      (fun t => (statusPort t, t.regs.r7, t.mem)) =
      some (⟨.faulted, 1, 0xFFFF, 9⟩, 0, [(9, 0x45)]) := by decide

/-- Vector S7: POP R7 leaves the popped byte. -/
theorem test_pop_sp :
    afterStep (machine 0 [(0, 0x46), (1, 7), (0xF4, 0x30)]) (fun t => (t.regs.r7, t.mem.byte 0xF4)) =
      some (0x30, 0x30) := by decide

/-- Vector S8. -/
theorem test_pop_at_255 :
    afterStep { machine 0 [(0, 0x46)] with regs := ⟨3, 0, 0, 0, 0, 0, 0, 255⟩ }
      (fun t => (t.fr.cause, t.regs.r7, t.regs.r0)) = some (some (.addressOutOfRange 256), 255, 3) := by decide

/-- Vector C1. -/
theorem test_call :
    afterStep { machine 6 [(6, 0x50), (7, 1)] with regs := ⟨0, 11, 0, 0, 0, 0, 0, 0xF4⟩ }
      (fun t => (t.regs.r7, t.mem.byte 0xF3, t.pc)) = some (0xF3, 8, 11) := by decide

/-- Vector C4: CALL R7 jumps to the new SP. -/
theorem test_call_sp :
    afterStep (machine 0 [(0, 0x50), (1, 7)]) (fun t => (t.mem.byte 0xF3, t.pc)) = some (2, 0xF3) := by decide

/-- Vector C6. -/
theorem test_ret :
    afterStep { machine 20 [(20, 0x11), (0xF3, 8)] with regs := ⟨0, 0, 0, 0, 0, 0, 0, 0xF3⟩ }
      (fun t => (t.regs.r7, t.pc)) = some (0xF4, 8) := by decide

/-- Vector C7. -/
theorem test_ret_at_255 :
    afterStep { machine 0 [(0, 0x11)] with regs := ⟨0, 0, 0, 0, 0, 0, 0, 255⟩ }
      (fun t => (t.fr.cause, t.regs.r7, t.pc)) = some (some (.addressOutOfRange 256), 255, 0) := by decide

/-- Vector B4: the compare is unsigned. -/
theorem test_cmp :
    afterStep { machine 0 [(0, 0xA7), (2, 1)] with regs := ⟨0x80, 0x7F, 0, 0, 0, 0, 0, 0⟩ }
      (fun t => (t.fl, t.pc)) = some (⟨false, false, true⟩, 3) := by decide

/-- Vector B8: a faulting CMP leaves the flags. -/
theorem test_cmp_register_8 :
    afterStep { machine 0 [(0, 0xA7), (1, 8)] with fl := ⟨true, false, false⟩ }
      (fun t => (t.fr.cause, t.fl)) = some (some (.registerOutOfRange 8), ⟨true, false, false⟩) := by decide

/-- Vector B11. -/
theorem test_jmp :
    afterStep { machine 0 [(0, 0x54)] with regs := ⟨254, 0, 0, 0, 0, 0, 0, 0⟩ } (fun t => (t.pc, t.rs)) =
      some (254, .running) := by decide

/-- Vector B12. -/
theorem test_jeq_taken :
    afterStep { machine 0 [(0, 0x55), (1, 3)] with regs := ⟨0, 0, 0, 25, 0, 0, 0, 0⟩, fl := ⟨true, false, false⟩ }
      (fun t => t.pc) = some 25 := by decide

/-- Vector B14: not taken, the register is not checked. -/
theorem test_jeq_not_taken :
    afterStep (machine 0 [(0, 0x55), (1, 9)]) (fun t => (t.pc, t.rs)) = some (2, .running) := by decide

/-- Vector B16: taken after a Greater compare. -/
theorem test_jne_taken :
    afterStep { machine 0 [(0, 0x56), (1, 1)] with regs := ⟨0, 40, 0, 0, 0, 0, 0, 0⟩, fl := ⟨false, false, true⟩ }
      (fun t => t.pc) = some 40 := by decide

/-- Vector B19. -/
theorem test_jne_not_taken :
    afterStep { machine 10 [(10, 0x56), (11, 1)] with fl := ⟨true, false, false⟩ } (fun t => t.pc) = some 12 := by
  decide

/-- Vectors H2, E17. -/
theorem test_hlt : afterStep (machine 253 [(253, 0x01)]) (fun t => (t.rs, t.pc)) = some (.halted, 253) := by decide

/-- Vector E18: a HLT at 254 never halts. -/
theorem test_hlt_at_254 :
    afterStep (machine 254 [(254, 0x01)]) (fun t => (t.rs, t.fr)) =
      some (.faulted, ⟨some (.addressOutOfRange 256), 254⟩) := by decide

/-- Vector E16. -/
theorem test_unknown_opcode :
    afterStep (machine 0x40 [(0x40, 0x03)]) (fun t => (t.rs, t.fr, t.pc)) =
      some (.faulted, ⟨some (.unknownOpcode 3), 0x40⟩, 0x40) := by decide

/-! ### Host port, trace port and the placement of a word -/

/-- R40: `write_fl` in Idle, in the layout of R48 (bit 0 is E, bit 1 is G, bit 2 is L). -/
theorem test_host_write_fl :
    afterCommand State.reset (.writeFl 0b11111010) (fun t => (t.fl, t.port.replies)) =
      some (⟨false, false, true⟩, [.accepted]) := by decide

/-- R40: a `load` while Running is refused and changes nothing. -/
theorem test_host_load_running :
    afterCommand (machine 0 []) (.load 3 7) (fun t => (t.mem, t.rs, t.port.replies)) =
      some ([], .running, [.refused]) := by decide

/-- R240: after a halt OUT is readable through the host port, and the read keeps it. -/
theorem test_host_read_out :
    afterCommand { machine 5 [] with rs := .halted, out := [14, 7] } .readOut (fun t => (t.out, t.port.replies)) =
      some ([14, 7], [.outValue [14, 7]]) := by decide

/-- Vector H5. -/
theorem test_host_reset :
    afterCommand { machine 5 [(5, 1)] with rs := .halted } .reset (fun t => (t.rs, t.mem, t.pc, t.regs.r7)) =
      some (.idle, [], 0, 0xF4) := by decide

/-- R310: the record of a good fetch. -/
theorem test_trace :
    stepTrace (machine 3 [(3, 0x47), (5, 9)]) = some ⟨3, 0x47, 0, 9, State.reset.regs⟩ := by decide

/-- An instruction of the table runs as the first step after reset. -/
theorem test_withFetchWord :
    afterStep (State.reset.withFetchWord 24 0x080082) (fun t => (t.regs.r0, t.pc, t.rs)) =
      some (8, 3, .running) := by decide

/-! ### Witnesses: the hypotheses of each statement can be met -/

/-- Both ways the core takes a step. -/
theorem witness_CoreTurn :
    CoreTurn (machine 0 []) (machine 0 []) ∧
      CoreTurn ((machine 0 []).setPending [none, some .reset]) ((machine 0 []).setPending [some .reset]) :=
  ⟨.inl ⟨rfl, rfl⟩, .inr ⟨_, rfl, rfl⟩⟩

theorem witness_DecodeIsExactMatchOfOpcodeByte :
    decode ⟨0x82, 3, 42⟩ = .ok (.ldi 3 42) ∧ (⟨0x01, 0, 0⟩ : Latch).ir = Opcode.hlt.byte ∧
      (∀ op : Opcode, (⟨0x00, 0, 0⟩ : Latch).ir ≠ op.byte) ∧ (⟨0x82, 0, 0⟩ : Latch).ir = (⟨0x82, 1, 2⟩ : Latch).ir :=
  ⟨rfl, rfl, fun op => by cases op <;> decide, rfl⟩

theorem witness_DecodeEncodeAgree : decode ⟨0x11, 3, 42⟩ = .ok .ret := rfl

theorem witness_FetchReadsThreeCheckedBytes :
    (machine 253 []).pc.toNat ≤ 253 ∧ 254 ≤ (machine 254 []).pc.toNat ∧ (machine 256 []).pc.toNat ≤ 256 := by decide

theorem witness_StepRunsTheDecodedInstruction :
    CoreTurn (machine 253 [(253, 0x01)]) (machine 253 [(253, 0x01)]) ∧
      (machine 253 [(253, 0x01)]).rs = .running ∧ (machine 253 [(253, 0x01)]).pc.toNat ≤ 253 ∧
      decode (latchAt (machine 253 [(253, 0x01)])) = .ok .hlt :=
  ⟨.inl ⟨rfl, rfl⟩, rfl, by decide, rfl⟩

theorem witness_UnknownOpcodeEndsTheRun :
    CoreTurn (machine 0 []) (machine 0 []) ∧ (machine 0 []).rs = .running ∧ (machine 0 []).pc.toNat ≤ 253 ∧
      ∀ op : Opcode, op.byte ≠ (machine 0 []).mem.byte (machine 0 []).pc.toNat :=
  ⟨.inl ⟨rfl, rfl⟩, rfl, by decide, fun op => by cases op <;> decide⟩

theorem witness_InstructionFaultsExactlyByTheTable :
    faultTable (.push 0) { machine 0 [] with regs := ⟨0, 0, 0, 0, 0, 0, 0, 0⟩ } = some (.addressOutOfRange (-1)) ∧
      faultTable (.pop 7) { machine 0 [] with regs := ⟨0, 0, 0, 0, 0, 0, 0, 255⟩ } = some (.addressOutOfRange 256) ∧
      faultTable (.mul 7 8) (machine 0 []) = some (.registerOutOfRange 8) ∧
      faultTable (.jeq 255) (machine 0 []) = none ∧ faultTable .hlt (machine 0 []) = none := by decide

theorem witness_CycleReportsTheFirstFault :
    CoreTurn (machine 254 []) (machine 254 []) ∧ (machine 254 []).rs = .running ∧
      (machine 256 []).pc.toNat ≤ 256 ∧ cycleFault (machine 254 []) = some (.addressOutOfRange 256) ∧
      cycleFault (machine 253 []) = some (.unknownOpcode 0) ∧ cycleFault (machine 253 [(253, 1)]) = none :=
  ⟨.inl ⟨rfl, rfl⟩, rfl, by decide, by decide, by decide, by decide⟩

theorem witness_FaultsArePrecise :
    (machine 4 []).rs = .running ∧
      exec (.prn 8) (machine 4 []) = .next (faultedAt (.registerOutOfRange 8) (machine 4 [])) ∧
      (faultedAt (.registerOutOfRange 8) (machine 4 [])).rs = .faulted :=
  ⟨rfl, rfl, rfl⟩

theorem witness_NextPcSelection :
    (machine 253 []).rs = .running ∧ (machine 253 []).pc.toNat ≤ 253 ∧
      exec (.ldi 0 0) (machine 253 []) = .next { machine 253 [] with pc := 256 } ∧
      ({ machine 253 [] with pc := 256 } : State).rs ≠ .faulted ∧
      exec (.ldi 8 0) (machine 253 []) = .next (faultedAt (.registerOutOfRange 8) (machine 253 [])) :=
  ⟨rfl, by decide, rfl, by decide, rfl⟩

theorem witness_RunEndsOnlyByHaltOrFault :
    CoreTurn (machine 0 []) (machine 0 []) ∧ (machine 0 []).rs = .running := ⟨.inl ⟨rfl, rfl⟩, rfl⟩

/-- The register clauses of LDI, PRN and JMP, at the ends of the two ranges. -/
theorem witness_one_register_operand :
    Names 0 0 ∧ Names 7 7 ∧ 8 ≤ (8 : Byte).toNat ∧ 8 ≤ (255 : Byte).toNat := by decide

/-- The clauses of MUL, ADD and CMP. -/
theorem witness_two_register_operands :
    (Names 0 0 ∧ Names 7 7) ∧ 8 ≤ (8 : Byte).toNat ∧ ((7 : Byte).toNat < 8 ∧ 8 ≤ (8 : Byte).toNat) := by decide

/-- The clauses of PUSH and CALL: SP at 1 and at 0, PC at 253. -/
theorem witness_push_clauses :
    (Names 7 7 ∧ ({ machine 253 [] with regs := ⟨0, 0, 0, 0, 0, 0, 0, 1⟩ } : State).sp ≠ 0 ∧
        (machine 253 []).pc.toNat ≤ 253) ∧ 8 ≤ (8 : Byte).toNat ∧
      ((7 : Byte).toNat < 8 ∧ ({ machine 253 [] with regs := ⟨0, 0, 0, 0, 0, 0, 0, 0⟩ } : State).sp = 0) := by decide

/-- The clauses of POP and RET: SP at 254 and at 255. -/
theorem witness_pop_clauses :
    (Names 7 7 ∧ ({ machine 0 [] with regs := ⟨0, 0, 0, 0, 0, 0, 0, 254⟩ } : State).sp ≠ 255) ∧
      8 ≤ (8 : Byte).toNat ∧
      ((7 : Byte).toNat < 8 ∧ ({ machine 0 [] with regs := ⟨0, 0, 0, 0, 0, 0, 0, 255⟩ } : State).sp = 255) := by decide

/-- The clauses of JEQ and JNE: each value of E, with a register in and out of range. -/
theorem witness_branch_clauses :
    (Names 7 7 ∧ ({ machine 0 [] with fl := ⟨true, false, false⟩ } : State).fl.e = true) ∧
      (8 ≤ (8 : Byte).toNat ∧ (machine 0 []).fl.e = false) := by decide

theorem witness_HltHaltsAtItsAddress :
    CoreTurn (machine 254 [(254, 1)]) (machine 254 [(254, 1)]) ∧ (machine 255 [(255, 1)]).pc.toNat = 255 ∧
      (machine 254 [(254, 1)]).pc.toNat = 254 ∧ ({ machine 5 [] with rs := .halted } : State).rs = .halted ∧
      step { machine 5 [] with rs := .halted } = .next { machine 5 [] with rs := .halted } :=
  ⟨.inl ⟨rfl, rfl⟩, rfl, rfl, rfl, rfl⟩

theorem witness_RegisterWritersFrame :
    (∃ b, Instr.ldi 7 5 = .ldi 7 b ∨ Instr.ldi 7 5 = .mul 7 b ∨ Instr.ldi 7 5 = .add 7 b) ∧
      exec (.ldi 7 5) (machine 0 []) =
        .next { machine 0 [] with regs := ⟨0, 0, 0, 0, 0, 0, 0, 5⟩, pc := 3 } :=
  ⟨⟨5, .inl rfl⟩, rfl⟩

theorem witness_ReadersFrame :
    (∃ a b : Byte, Instr.prn 0 = .prn a ∨ Instr.prn 0 = .cmp a b ∨ Instr.prn 0 = .jmp a ∨ Instr.prn 0 = .jeq a ∨
        Instr.prn 0 = .jne a) ∧
      exec (.prn 0) (machine 0 []) = .next { machine 0 [] with out := [0], pc := 2 } ∧
      (∀ a b, Instr.prn 0 ≠ .cmp a b) ∧ (∀ a, Instr.jmp 0 ≠ .prn a) :=
  ⟨⟨0, 0, .inl rfl⟩, rfl, by simp, by simp⟩

theorem witness_StoringInstructionsFrame :
    exec (.push 7) (machine 0 []) =
        .next { machine 0 [] with regs := ⟨0, 0, 0, 0, 0, 0, 0, 0xF3⟩, mem := [(0xF3, 0xF4)], pc := 2 } ∧
      spDec (machine 0 []) = .ok 0xF3 ∧ (machine 0 []).mem.wf = true ∧ Names 7 7 ∧
      spDec { machine 0 [] with regs := ⟨0, 0, 0, 0, 0, 0, 0, 0⟩ } = .error (.addressOutOfRange (-1)) :=
  ⟨rfl, rfl, rfl, rfl, rfl⟩

theorem witness_PoppingInstructionsFrame :
    (Instr.pop 1 = .ret ∨ ∃ a, Instr.pop 1 = .pop a) ∧
      exec (.pop 1) (machine 0 []) =
        .next { machine 0 [] with regs := ⟨0, 0, 0, 0, 0, 0, 0, 0xF5⟩, pc := 2 } :=
  ⟨.inr ⟨1, rfl⟩, rfl⟩

theorem witness_OnlyCompareWritesFlags :
    (machine 0 []).rs = .running ∧
      exec (.cmp 0 1) (machine 0 []) = .next { machine 0 [] with fl := ⟨true, false, false⟩, pc := 3 } ∧
      ({ machine 0 [] with fl := ⟨true, false, false⟩, pc := 3 } : State).fl ≠ (machine 0 []).fl :=
  ⟨rfl, rfl, by decide⟩

theorem witness_CompareSetsExactlyOneFlag : (7 : Byte).toNat < 8 ∧ (0 : Byte).toNat < 8 := by decide

theorem witness_OutputGrowsOneByteInOrder :
    step (machine 0 [(0, 0x47)]) = .next { machine 0 [(0, 0x47)] with out := [0], pc := 2 } ∧
      ∀ q, (machine 0 [(0, 0x47)]).port.pending ≠ some .reset :: q :=
  ⟨rfl, by intro q; simp [machine, State.reset, State.resetWith]⟩

theorem witness_RunStateTransitions :
    step (State.reset.setPending [some .start]) =
      .next { State.reset with rs := .running, port := ⟨[], [.accepted], false⟩ } := rfl

theorem witness_TerminalStatesStay :
    ({ machine 0 [] with rs := .faulted } : State).rs = .faulted ∧
      CoreTurn { machine 0 [] with rs := .halted } { machine 0 [] with rs := .halted } ∧
      (State.setPending { machine 0 [] with rs := .faulted } [some .start]).port.pending = some .start :: [] ∧
      HostCmd.start ≠ .reset :=
  ⟨rfl, .inl ⟨rfl, rfl⟩, rfl, by decide⟩

theorem witness_EveryStepKeepsTheInvariant :
    StepInv State.reset ∧ step State.reset = .next State.reset :=
  ⟨⟨rfl, by decide, fun _ => rfl, fun h => absurd h (by decide), fun h => absurd h (by decide)⟩, rfl⟩

theorem witness_NoStepChangesSpReset : step State.reset = .next State.reset := rfl

theorem witness_MemoryReadAndWrite :
    ((-1 : Int) < 0 ∨ (256 : Int) ≤ -1) ∧ ((256 : Int) < 0 ∨ (256 : Int) ≤ 256) ∧
      (0 ≤ (0 : Int) ∧ (0 : Int) < 256 ∧ State.reset.mem.wf = true) ∧
      (0 ≤ (255 : Int) ∧ (255 : Int) < 256) := by decide

theorem witness_EqualContentsAreEqualMemories :
    Memory.wf [(3, 1)] = true ∧ ∀ a : Nat, a < 256 → Memory.byte [(3, 1)] a = Memory.byte [(3, 1)] a :=
  ⟨rfl, fun _ _ => rfl⟩

theorem witness_RegistersHoldWhatWasWritten : (0 : Fin 8) ≠ 7 := by decide

theorem witness_LoadThenPrintEmitsTheImmediate : (7 : Byte).toNat < 8 := by decide

theorem witness_PushThenPopIsRoundTrip :
    Names 7 7 ∧ (machine 0 []).mem.wf = true ∧
      1 ≤ ({ machine 0 [] with regs := ⟨0, 0, 0, 0, 0, 0, 0, 1⟩ } : State).sp.toNat := by decide

theorem witness_ReturnGoesBehindTheCall :
    Names 1 1 ∧ (machine 253 []).mem.wf = true ∧ (machine 253 []).pc.toNat ≤ 253 ∧
      1 ≤ (machine 253 []).sp.toNat ∧ (machine 253 []).sp = (machine 0 []).sp ∧
      (machine 253 []).mem.byte (machine 253 []).sp.toNat = (machine 0 []).mem.byte (machine 253 []).sp.toNat := by
  decide

theorem witness_CompareThenJeqBranchesOnEquality :
    Names 0 0 ∧ Names 7 7 ∧ Names 1 1 ∧ (machine 253 []).pc.toNat ≤ 253 ∧
      (machine 253 []).reg 0 = (machine 253 []).reg 1 ∧ (machine 253 []).reg 0 ≠ (machine 253 []).reg 7 := by decide

/-- A PUSH at 0 with SP = 3 writes address 2, the first byte of the next instruction. -/
theorem witness_StoredCodeIsFetchedNext :
    (Instr.push 0 = .push 0 ∨ Instr.push 0 = .call 0) ∧ (0 : Byte).toNat < 8 ∧
      ({ machine 0 [] with regs := ⟨1, 0, 0, 0, 0, 0, 0, 3⟩ } : State).sp ≠ 0 ∧
      exec (.push 0) { machine 0 [] with regs := ⟨1, 0, 0, 0, 0, 0, 0, 3⟩ } =
        .next { machine 2 [(2, 1)] with regs := ⟨1, 0, 0, 0, 0, 0, 0, 2⟩ } ∧
      (({ machine 0 [] with regs := ⟨1, 0, 0, 0, 0, 0, 0, 3⟩ } : State).sp - 1).toNat = (machine 2 []).pc.toNat + 0 :=
  ⟨.inl rfl, by decide, by decide, rfl, rfl⟩

/-- A CALL at 9 with SP = 3 and R0 = 2 writes address 2, the first byte of its target. -/
theorem witness_StoredCodeIsFetchedNext_call :
    let s : State := { machine 9 [] with regs := ⟨2, 0, 0, 0, 0, 0, 0, 3⟩ }
    let t : State := { machine 2 [(2, 11)] with regs := ⟨2, 0, 0, 0, 0, 0, 0, 2⟩ }
    (Instr.call 0 = .push 0 ∨ Instr.call 0 = .call 0) ∧ (0 : Byte).toNat < 8 ∧ s.sp ≠ 0 ∧ s.mem.wf = true ∧
      exec (.call 0) s = .next t ∧ t.pc.toNat ≤ 253 ∧ (s.sp - 1).toNat = t.pc.toNat + 0 :=
  ⟨.inr rfl, by decide, by decide, rfl, rfl, by decide, rfl⟩

/-- Program P7's PUSH at 6 with SP = 8. -/
theorem witness_OperandsAreLatchedAtFetch :
    let s : State := { machine 6 [(6, 0x45)] with regs := ⟨9, 0, 0, 0, 0, 0, 0, 8⟩ }
    CoreTurn s s ∧ s.rs = .running ∧ s.pc.toNat ≤ 253 ∧ s.mem.wf = true ∧ s.sp.toNat = s.pc.toNat + 2 ∧
      s.mem.byte (s.pc.toNat + 1) = 0 ∧ Names 0 0 ∧ s.mem.byte s.pc.toNat = 0b01000101 :=
  ⟨.inl ⟨rfl, rfl⟩, rfl, by decide, rfl, rfl, rfl, rfl, rfl⟩

/-- The same with a CALL. -/
theorem witness_OperandsAreLatchedAtFetch_call :
    let s : State := { machine 6 [(6, 0x50)] with regs := ⟨9, 0, 0, 0, 0, 0, 0, 8⟩ }
    CoreTurn s s ∧ s.sp.toNat = s.pc.toNat + 2 ∧ s.mem.byte s.pc.toNat = 0b01010000 :=
  ⟨.inl ⟨rfl, rfl⟩, rfl, rfl⟩

theorem witness_reset_statements :
    ((machine 9 [(9, 1)]).setPending [some .reset, none]).port.pending = some .reset :: [none] := rfl

theorem witness_HostCommandOutOfItsStateIsRefused :
    ((machine 0 []).setPending [some .readPc]).port.pending = some .readPc :: [] ∧
      hostAccepts .readPc (machine 0 []).rs = false ∧ hostAccepts .start .halted = false := ⟨rfl, rfl, rfl⟩

theorem witness_HostWritesAndStartInIdle :
    (State.reset.setPending [some (.load 255 7)]).rs = .idle ∧ (255 < 256) ∧
      (State.reset.setPending [some (.load (255 : Nat) 7)]).port.pending = some (.load (255 : Nat) 7) :: [] ∧
      ((256 : Int) < 0 ∨ (256 : Int) ≤ 256) ∧ ((-1 : Int) < 0) ∧ State.reset.port.loadRefused = false :=
  ⟨rfl, by decide, rfl, by decide, by decide, rfl⟩

theorem witness_HostReadsReturnTheState :
    ({ machine 0 [] with rs := .halted } : State).rs ≠ .running ∧ State.reset.rs ≠ .running ∧
      (State.reset.setPending [some (.readMem (255 : Nat))]).port.pending = some (.readMem (255 : Nat)) :: [] ∧
      (State.reset.setPending [some .readOut]).port.pending = some .readOut :: [] :=
  ⟨by decide, by decide, rfl, rfl⟩

theorem witness_BootReachesTheLaunchState :
    (List.replicate 256 (1 : Byte)).length ≤ 256 ∧
      (State.reset.setPending (bootScript [0x01])).port.pending = bootScript [0x01] :=
  ⟨by rw [List.length_replicate], rfl⟩

theorem witness_LongImageHasNoRun :
    256 < (List.replicate 257 (1 : Byte)).length ∧
      (State.reset.setPending (bootScript (List.replicate 257 1))).port.pending =
        bootScript (List.replicate 257 1) :=
  ⟨by rw [List.length_replicate]; decide, rfl⟩

theorem witness_StatusPortShowsTheFault : State.reset.rs ≠ .faulted := by decide

theorem witness_TracePortShowsEachGoodFetch :
    CoreTurn (machine 253 []) (machine 253 []) ∧ (machine 253 []).rs = .running ∧
      (machine 253 []).pc.toNat ≤ 253 ∧ 254 ≤ (machine 254 []).pc.toNat ∧ (machine 256 []).pc.toNat ≤ 256 ∧
      State.reset.rs ≠ .running :=
  ⟨.inl ⟨rfl, rfl⟩, rfl, by decide, by decide, by decide, by decide⟩

end Sys2Proof.Tests
end

/-! SUPPORT. What the core's own step, a reset and one instruction can do, each said once; then the statements of the
family 10_state. -/

namespace Sys2Proof.Machine

/-! ### Steps the core takes, and the step that serves a reset -/

/-- Spending a schedule entry touches the host port alone. -/
theorem CoreTurn.eq_withPort {s s' : State} (h : CoreTurn s s') : s' = { s with port := s'.port } := by
  obtain ⟨-, rfl⟩ | ⟨q, -, rfl⟩ := h <;> rfl

theorem CoreTurn.rs {s s' : State} (h : CoreTurn s s') : s'.rs = s.rs := by rw [h.eq_withPort]

theorem CoreTurn.pc {s s' : State} (h : CoreTurn s s') : s'.pc = s.pc := by rw [h.eq_withPort]

theorem CoreTurn.step_eq_cycle {s s' : State} (h : CoreTurn s s') : step s = cycle s' := by
  obtain ⟨hp, rfl⟩ | ⟨q, hp, rfl⟩ := h <;> simp only [step, hp]

/-- The statements' word for a fault is the model's (R107). -/
theorem raiseFault_eq_faultedAt (c : FaultCause) (s : State) : raiseFault c s = faultedAt c s := rfl

theorem cycle_of_fetch_error {s : State} {c : FaultCause} (hr : s.rs = .running) (hf : fetch s = .error c) :
    cycle s = .next (raiseFault c s) := by
  simp only [cycle, hr, hf]

theorem cycle_of_not_running {s : State} (h : s.rs ≠ .running) : cycle s = .next s := by
  obtain ⟨-, hc⟩ | ⟨hr, -⟩ | ⟨hr, -⟩ | ⟨hr, -⟩ := cycle_cases s
  · exact hc
  all_goals exact absurd hr h

/-- R350: a reset is served from every state; SP_RESET, the schedule and the answers stay. -/
theorem step_of_reset {s : State} {q : List (Option HostCmd)} (h : s.port.pending = some .reset :: q) :
    step s = .next
      { State.resetWith s.spReset with port := ⟨q, s.port.replies ++ [.accepted], false⟩ } := by
  simp only [step, h]
  rfl

/-- R40: out of Idle a host command other than `reset` has no architectural effect. -/
theorem HostEffect.reset_or_eq {s u : State} {c : HostCmd} (e : HostEffect s c u) (h : s.rs ≠ .idle) :
    c = .reset ∨ u = s := by
  cases e with
  | reset => exact .inl rfl
  | none => exact .inr rfl
  | _ => contradiction

/-- R110, decision D28: in Halted and Faulted a step writes the host port alone, unless it serves a reset. -/
theorem step_of_terminal {s t : State} (hi : s.rs ≠ .idle) (hr : s.rs ≠ .running) (h : step s = .next t) :
    (∃ p, t = { s with port := p }) ∨ ∃ q, s.port.pending = some .reset :: q := by
  obtain ⟨-, hs⟩ | ⟨q, -, hs⟩ | ⟨c, q, hp, hs⟩ := step_cases s
  · rw [hs, cycle_of_not_running hr] at h
    cases h
    exact .inl ⟨_, rfl⟩
  · rw [hs, cycle_of_not_running (s := s.setPending q) hr] at h
    cases h
    exact .inl ⟨_, rfl⟩
  · obtain ⟨-, hidle, -⟩ | ⟨u, p, e, hc⟩ := hostCommand_cases c (s.setPending q)
    · exact absurd hidle hi
    · rw [hs, hc] at h
      cases h
      obtain rfl | rfl := e.reset_or_eq hi
      · exact .inr ⟨q, hp⟩
      · exact .inl ⟨p, rfl⟩

/-! ### What one instruction can do -/

/-- The effect of an instruction that completes, with the register its operand names and the guard of each case
(R140 to R240). -/
inductive InstrEffect (s : State) : Instr → State → Prop where
  | ldi {a : Byte} {i : Fin 8} (imm : Byte) (ha : Names a i) :
      InstrEffect s (.ldi a imm) ((s.setReg i imm).advance 3)
  | prn {a : Byte} {i : Fin 8} (ha : Names a i) : InstrEffect s (.prn a) ((s.emit (s.reg i)).advance 2)
  | mul {a b : Byte} {i j : Fin 8} (ha : Names a i) (hb : Names b j) :
      InstrEffect s (.mul a b) ((s.setReg i (trunc8 ((s.reg i).toNat * (s.reg j).toNat))).advance 3)
  | add {a b : Byte} {i j : Fin 8} (ha : Names a i) (hb : Names b j) :
      InstrEffect s (.add a b) ((s.setReg i (trunc8 ((s.reg i).toNat + (s.reg j).toNat))).advance 3)
  | push {a : Byte} {i : Fin 8} (ha : Names a i) (hsp : s.sp ≠ 0#8) :
      InstrEffect s (.push a)
        (State.advance { s with regs := s.regs.set 7 (s.sp - 1), mem := s.mem.set (s.sp - 1).toNat (s.reg i) } 2)
  | pop {a : Byte} {i : Fin 8} (ha : Names a i) (hsp : s.sp ≠ 255#8) :
      InstrEffect s (.pop a) (((s.setSp (s.sp + 1)).setReg i (s.mem.byte s.sp.toNat)).advance 2)
  | call {a : Byte} {i : Fin 8} (ha : Names a i) (hsp : s.sp ≠ 0#8) :
      InstrEffect s (.call a)
        (State.jump
          { s with regs := s.regs.set 7 (s.sp - 1), mem := s.mem.set (s.sp - 1).toNat (returnAddress s.pc) }
          ((s.regs.set 7 (s.sp - 1)).get i))
  | ret (hsp : s.sp ≠ 255#8) : InstrEffect s .ret ((s.setSp (s.sp + 1)).jump (s.mem.byte s.sp.toNat))
  | cmp {a b : Byte} {i j : Fin 8} (ha : Names a i) (hb : Names b j) :
      InstrEffect s (.cmp a b) ((s.setFl (compareFlags (s.reg i) (s.reg j))).advance 3)
  | jmp {a : Byte} {i : Fin 8} (ha : Names a i) : InstrEffect s (.jmp a) (s.jump (s.reg i))
  | jeqTaken {a : Byte} {i : Fin 8} (he : s.fl.e = true) (ha : Names a i) :
      InstrEffect s (.jeq a) (s.jump (s.reg i))
  | jeqNotTaken (a : Byte) (he : s.fl.e = false) : InstrEffect s (.jeq a) (s.advance 2)
  | jneTaken {a : Byte} {i : Fin 8} (he : s.fl.e = false) (ha : Names a i) :
      InstrEffect s (.jne a) (s.jump (s.reg i))
  | jneNotTaken (a : Byte) (he : s.fl.e = true) : InstrEffect s (.jne a) (s.advance 2)
  | hlt : InstrEffect s .hlt s.halt

theorem regFault_names {a : Byte} {i : Fin 8} (h : Names a i) : regFault a = none := if_neg (by omega)

theorem regFault_outOfRange {a : Byte} (h : 8 ≤ a.toNat) : regFault a = some (.registerOutOfRange a) := if_pos h

theorem pushFault_zero {s : State} (h : s.sp = 0#8) : pushFault s = some (.addressOutOfRange (-1)) := by
  simp [pushFault, h]

theorem pushFault_pos {s : State} (h : s.sp ≠ 0#8) : pushFault s = none :=
  if_neg fun h0 => h (BitVec.eq_of_toNat_eq h0)

theorem popFault_top {s : State} (h : s.sp = 255#8) : popFault s = some (.addressOutOfRange 256) := by
  simp [popFault, h]

theorem popFault_below {s : State} (h : s.sp ≠ 255#8) : popFault s = none :=
  if_neg fun h0 => h (BitVec.eq_of_toNat_eq h0)

/-- A body of `i` begun at `s` keeps to the fault table's answer `f`: with no fault it ends in the effect of `i`, and
else it raises that fault. -/
def BodyMeets (i : Instr) (s : State) (f : Option FaultCause) (body : Except FaultCause State) : Prop :=
  (∃ u, f = none ∧ InstrEffect s i u ∧ body = .ok u) ∨ ∃ c, f = some c ∧ body = .error c

section

variable {i : Instr} {s : State}

theorem BodyMeets.of_effect {u : State} (e : InstrEffect s i u) : BodyMeets i s none (.ok u) :=
  .inl ⟨u, rfl, e, rfl⟩

theorem BodyMeets.of_error (c : FaultCause) : BodyMeets i s (some c) (.error c) :=
  .inr ⟨c, rfl, rfl⟩

/-- R106: a body that first checks the index `a`. -/
theorem BodyMeets.checkReg_bind {a : Byte} {f : Option FaultCause} {k : Fin 8 → Except FaultCause State}
    (h : ∀ p, Names a p → BodyMeets i s f (k p)) : BodyMeets i s ((regFault a).or f) (checkReg a >>= k) := by
  obtain ⟨p, ha, hc⟩ | ⟨ha, hc⟩ := checkReg_cases a
  · rw [regFault_names ha, hc]
    exact h p ha
  · rw [regFault_outOfRange ha, hc]
    exact .of_error _

/-- R106: a body whose one check is that of the index `a`. -/
theorem BodyMeets.checkReg_last {a : Byte} {g : Fin 8 → State} (h : ∀ p, Names a p → InstrEffect s i (g p)) :
    BodyMeets i s (regFault a) (checkReg a >>= fun p => .ok (g p)) := by
  rw [← Option.or_none (o := regFault a)]
  exact checkReg_bind fun p ha => .of_effect (h p ha)

/-- R171: a body whose last check is that of a push. -/
theorem BodyMeets.pushByte_bind {v : Byte} {k : State → Except FaultCause State}
    (h : s.sp ≠ 0#8 →
      BodyMeets i s none (k { s with regs := s.regs.set 7 (s.sp - 1), mem := s.mem.set (s.sp - 1).toNat v })) :
    BodyMeets i s (pushFault s) (pushByte v s >>= k) := by
  by_cases hsp : s.sp = 0#8
  · rw [pushFault_zero hsp, pushByte_zero v hsp]
    exact .of_error _
  · rw [pushFault_pos hsp, pushByte_pos v hsp]
    exact h hsp

/-- R171, decision D6: a body whose last check is that of a pop. -/
theorem BodyMeets.popByte_bind {k : Byte × State → Except FaultCause State}
    (h : s.sp ≠ 255#8 → BodyMeets i s none (k (s.mem.byte s.sp.toNat, s.setSp (s.sp + 1)))) :
    BodyMeets i s (popFault s) (popByte s >>= k) := by
  by_cases hsp : s.sp = 255#8
  · rw [popFault_top hsp, popByte_top hsp]
    exact .of_error _
  · rw [popFault_below hsp, popByte_below hsp]
    exact h hsp

end

/-- R220: JEQ is the jump when E is set, and else an advance that checks nothing (decision D8). -/
theorem jeq_bodyMeets (a : Byte) (s : State) :
    BodyMeets (.jeq a) s (faultTable (.jeq a) s) (conditionalJump .jeq a s) := by
  cases he : s.fl.e with
  | true =>
    simp only [faultTable, he, if_true, conditionalJump_taken a ((branchTaken_jeq s.fl).trans he)]
    exact .checkReg_last fun _ ha => .jeqTaken he ha
  | false =>
    simp only [faultTable, he, conditionalJump_notTaken a ((branchTaken_jeq s.fl).trans he)]
    exact .of_effect (.jeqNotTaken a he)

/-- R225: JNE is the jump when E is clear, and else an advance that checks nothing (decision D8). -/
theorem jne_bodyMeets (a : Byte) (s : State) :
    BodyMeets (.jne a) s (faultTable (.jne a) s) (conditionalJump .jne a s) := by
  cases he : s.fl.e with
  | true =>
    have hb : branchTaken .jne s.fl = false := by simp [he]
    simp only [faultTable, he, if_true, conditionalJump_notTaken a hb]
    exact .of_effect (.jneNotTaken a he)
  | false =>
    have hb : branchTaken .jne s.fl = true := by simp [he]
    simp only [faultTable, he, conditionalJump_taken a hb]
    exact .checkReg_last fun _ ha => .jneTaken he ha

/-- Everything an instruction can do (R103, R107, R301): it finishes a body that keeps to the fault table. -/
theorem exec_eq_finish (i : Instr) (s : State) :
    ∃ body, exec i s = finish s body ∧ BodyMeets i s (faultTable i s) body := by
  cases i with
  | ldi a imm => exact ⟨_, rfl, .checkReg_last fun _ ha => .ldi imm ha⟩
  | prn a => exact ⟨_, rfl, .checkReg_last fun _ ha => .prn ha⟩
  | mul a b => exact ⟨_, rfl, .checkReg_bind fun _ ha => .checkReg_last fun _ hb => .mul ha hb⟩
  | add a b => exact ⟨_, rfl, .checkReg_bind fun _ ha => .checkReg_last fun _ hb => .add ha hb⟩
  | push a => exact ⟨_, rfl, .checkReg_bind fun _ ha => .pushByte_bind fun hsp => .of_effect (.push ha hsp)⟩
  | pop a => exact ⟨_, rfl, .checkReg_bind fun _ ha => .popByte_bind fun hsp => .of_effect (.pop ha hsp)⟩
  | call a => exact ⟨_, rfl, .checkReg_bind fun _ ha => .pushByte_bind fun hsp => .of_effect (.call ha hsp)⟩
  | ret => exact ⟨_, rfl, .popByte_bind fun hsp => .of_effect (.ret hsp)⟩
  | cmp a b => exact ⟨_, rfl, .checkReg_bind fun _ ha => .checkReg_last fun _ hb => .cmp ha hb⟩
  | jmp a => exact ⟨_, rfl, .checkReg_last fun _ ha => .jmp ha⟩
  | jeq a => exact ⟨_, rfl, jeq_bodyMeets a s⟩
  | jne a => exact ⟨_, rfl, jne_bodyMeets a s⟩
  | hlt => exact ⟨_, rfl, .of_effect .hlt⟩

/-- The inversion of `exec`: the next state is the instruction's effect, or the fault of R301 taken from `s`. -/
theorem exec_cases {i : Instr} {s t : State} (h : exec i s = .next t) :
    (faultTable i s = none ∧ InstrEffect s i t) ∨ ∃ c, faultTable i s = some c ∧ t = raiseFault c s := by
  obtain ⟨body, hx, ⟨u, hf, e, rfl⟩ | ⟨c, hf, rfl⟩⟩ := exec_eq_finish i s
  · rw [hx, finish_ok] at h
    cases h
    exact .inl ⟨hf, e⟩
  · rw [hx, finish_error] at h
    cases h
    exact .inr ⟨c, hf, rfl⟩

/-- R30: of the instructions that complete only CMP writes the flags. -/
theorem InstrEffect.cmp_or_fl_eq {i : Instr} {s t : State} (e : InstrEffect s i t) :
    (∃ a b, i = .cmp a b) ∨ t.fl = s.fl := by
  cases e with
  | cmp => exact .inl ⟨_, _, rfl⟩
  | _ => exact .inr rfl

/-- R32: of the instructions that complete only HLT writes RS. -/
theorem InstrEffect.hlt_or_rs_eq {i : Instr} {s t : State} (e : InstrEffect s i t) : i = .hlt ∨ t.rs = s.rs := by
  cases e with
  | hlt => exact .inl rfl
  | _ => exact .inr rfl

/-! ### The statements -/

/-- Settles O51: a reset leaves the empty cell list, in which every address reads as 0x00. -/
theorem resetClearsMemoryAndPc : Obligations.ResetClearsMemoryAndPc := by
  unfold Obligations.ResetClearsMemoryAndPc
  exact ⟨fun _ => rfl, rfl, fun s q h => ⟨_, step_of_reset h, fun _ => rfl, rfl⟩⟩

/-- Settles O31: a fault keeps the flags, an instruction that completes with other flags is a CMP, and a CMP keeps
RS. -/
theorem onlyCompareWritesFlags : Obligations.OnlyCompareWritesFlags := by
  unfold Obligations.OnlyCompareWritesFlags
  intro i s t hrun hx hne
  obtain ⟨-, e⟩ | ⟨c, -, rfl⟩ := exec_cases hx
  · obtain ⟨a, b, rfl⟩ | hfl := e.cmp_or_fl_eq
    · obtain hhlt | hrs := e.hlt_or_rs_eq
      · cases hhlt
      · exact ⟨⟨a, b, rfl⟩, by simp [hrs, hrun]⟩
    · exact absurd hfl hne
  · exact absurd (raiseFault_fl s c) hne

/-- Settles O26: HLT is R240's one write; at 254 and 255 the fetch fails at 256 before any opcode is decoded; and a
step from Halted that serves no reset writes the host port alone. -/
theorem hltHaltsAtItsAddress : Obligations.HltHaltsAtItsAddress := by
  unfold Obligations.HltHaltsAtItsAddress
  refine ⟨fun _ => ⟨rfl, rfl⟩, ?_, ?_⟩
  · intro s s' hturn hrun hpc
    have hfetch : fetch s' = .error (.addressOutOfRange 256) :=
      fetch_outOfRange (by rw [hturn.pc]; omega) (by rw [hturn.pc]; omega)
    calc step s = cycle s' := hturn.step_eq_cycle
      _ = .next (raiseFault (.addressOutOfRange 256) s') := cycle_of_fetch_error (hturn.rs.trans hrun) hfetch
      _ = .next (faultedAt (.addressOutOfRange 256) s') := by rw [raiseFault_eq_faultedAt]
  · intro s t hhalt hstep
    obtain ⟨p, rfl⟩ | hreset := step_of_terminal (by simp [hhalt]) (by simp [hhalt]) hstep
    · exact .inl ⟨hhalt, rfl, rfl, rfl, rfl, rfl⟩
    · exact .inr hreset

end Sys2Proof.Machine

/-! ## The memory interface -/

namespace Sys2Proof.Machine

/-- R52: a read of the cell written gives the byte written. -/
theorem memRead_set_self {addr : Int} (v : Byte) {s : State} (h0 : 0 ≤ addr) (h1 : addr < 256)
    (hwf : s.mem.wf = true) : memRead addr { s with mem := s.mem.set addr.toNat v } = .ok v := by
  rw [memRead_inRange _ h0 h1]
  exact congrArg Except.ok (Memory.byte_set_self addr.toNat v hwf)

/-- R52: a read of any other address, outside 0..255 too, gives what it gave before the write. -/
theorem memRead_set_ne {addr b : Int} (v : Byte) (s : State) (h0 : 0 ≤ addr) (hne : b ≠ addr) :
    memRead b { s with mem := s.mem.set addr.toNat v } = memRead b s := by
  by_cases hb : b < 0 ∨ 256 ≤ b
  · rw [memRead_outOfRange _ hb, memRead_outOfRange _ hb]
  · have hcell : b.toNat ≠ addr.toNat := by omega
    rw [memRead_inRange _ (by omega) (by omega), memRead_inRange _ (by omega) (by omega)]
    exact congrArg Except.ok (Memory.byte_set_ne s.mem v hcell)

/-- Settles O41: outside 0..255 the bounds check refuses both operations; inside, the state a write answers differs in
the one cell alone. -/
theorem memoryReadAndWrite : Obligations.MemoryReadAndWrite := by
  unfold Obligations.MemoryReadAndWrite
  intro addr v s
  refine ⟨fun hout => ⟨memRead_outOfRange s hout, memWrite_outOfRange v s hout⟩, fun h0 h1 hwf => ?_⟩
  exact ⟨memRead_inRange s h0 h1, { s with mem := s.mem.set addr.toNat v }, memWrite_inRange v s h0 h1, rfl,
    memRead_set_self v h0 h1 hwf, fun _ hne => memRead_set_ne v s h0 hne⟩

end Sys2Proof.Machine

/-! ## Encoding -/

namespace Sys2Proof

/-- R82, R84: a latch whose opcode byte is a row's decodes to that row, with the operand bytes as fetched. -/
theorem decode_of_byte {l : Latch} {op : Opcode} (h : l.ir = op.byte) : decode l = .ok (assemble op l.a l.b) := by
  simp only [decode, h, decodeOpcode_byte]

/-- R102: a latch whose opcode byte is no row's is rejected with that byte. -/
theorem decode_of_no_byte {l : Latch} (h : ∀ op : Opcode, l.ir ≠ op.byte) :
    decode l = .error (.unknownOpcode l.ir) := by
  simp only [decode, decodeOpcode_none fun op => (h op).symm]

/-- What the decoder accepts: the byte of a row, and then the instruction assembled for that row (R82, R84). -/
theorem decode_eq_ok_iff {l : Latch} {i : Instr} :
    decode l = .ok i ↔ ∃ op : Opcode, l.ir = op.byte ∧ i = assemble op l.a l.b := by
  constructor
  · intro h
    by_cases hrow : ∃ op : Opcode, l.ir = op.byte
    · obtain ⟨op, hop⟩ := hrow
      rw [decode_of_byte hop] at h
      cases h
      exact ⟨op, hop, rfl⟩
    · rw [decode_of_no_byte (not_exists.mp hrow)] at h
      cases h
  · rintro ⟨op, hop, rfl⟩
    exact decode_of_byte hop

/-- R82: the opcode of the decoded instruction is the lookup of the first byte; no later byte enters it. -/
theorem decode_opcode_eq_decodeOpcode (l : Latch) : (decode l).toOption.map Instr.opcode = decodeOpcode l.ir := by
  cases ho : decodeOpcode l.ir with
  | some op =>
    rw [decode_of_byte (byte_of_decodeOpcode ho).symm]
    exact congrArg some (opcode_assemble op l.a l.b)
  | none =>
    simp only [decode, ho]
    rfl

/-- R83: an instruction has as many operand bytes as its row says. -/
theorem operands_length (i : Instr) : i.operands.length = i.opcode.operandCount := by
  cases i <;> rfl

/-- Settles O2: the decoder accepts exactly the bytes of the rows, and selects the row by the opcode lookup, a
function of that byte alone. -/
theorem decodeIsExactMatchOfOpcodeByte : Obligations.DecodeIsExactMatchOfOpcodeByte := by
  unfold Obligations.DecodeIsExactMatchOfOpcodeByte
  refine ⟨fun l i h => ?_, fun l op h => ?_, fun l => decode_of_no_byte, fun l l' h => ?_⟩
  · obtain ⟨op, hop, rfl⟩ := decode_eq_ok_iff.mp h
    exact ⟨by rw [hop, opcode_assemble], operands_length _⟩
  · exact ⟨assemble op l.a l.b, decode_of_byte h, opcode_assemble op l.a l.b⟩
  · rw [decode_opcode_eq_decodeOpcode, decode_opcode_eq_decodeOpcode, h]

end Sys2Proof

/-! ## The cycle: what one instruction and one whole cycle answer -/

namespace Sys2Proof.Machine

section

variable {i : Instr} {s t : State}

/-! ### Forward rules of `exec` -/

/-- Everything an instruction can do, by the answer of R301's table: with no fault its effect, else that fault. -/
theorem exec_effect_or_fault (i : Instr) (s : State) :
    (faultTable i s = none ∧ ∃ t, InstrEffect s i t ∧ exec i s = .next t) ∨
      ∃ c, faultTable i s = some c ∧ exec i s = .next (raiseFault c s) := by
  obtain ⟨body, hx, ⟨u, hf, e, rfl⟩ | ⟨c, hf, rfl⟩⟩ := exec_eq_finish i s
  · exact .inl ⟨hf, u, e, hx⟩
  · exact .inr ⟨c, hf, hx⟩

theorem exec_of_fault {c : FaultCause} (h : faultTable i s = some c) : exec i s = .next (faultedAt c s) := by
  obtain ⟨hf, -⟩ | ⟨c', hf, hx⟩ := exec_effect_or_fault i s
  · cases hf.symm.trans h
  · cases hf.symm.trans h
    exact hx

/-- An effect whose guards hold is what the instruction answers (R103). -/
theorem exec_of_effect (e : InstrEffect s i t) : exec i s = .next t := by
  cases e with
  | ldi imm ha => simp only [exec, execLdi, checkReg_names ha]; rfl
  | prn ha => simp only [exec, execPrn, checkReg_names ha]; rfl
  | mul ha hb => simp only [exec, execMul, arithmetic_names _ s ha hb]; rfl
  | add ha hb => simp only [exec, execAdd, arithmetic_names _ s ha hb]; rfl
  | push ha hsp => simp only [exec, execPush, checkReg_names ha, pushByte_pos _ hsp]; rfl
  | pop ha hsp => simp only [exec, execPop, checkReg_names ha, popByte_below hsp]; rfl
  | call ha hsp => simp only [exec, execCall, checkReg_names ha, pushByte_pos _ hsp]; rfl
  | ret hsp => simp only [exec, execRet, popByte_below hsp]; rfl
  | cmp ha hb => simp only [exec, execCmp, checkReg_names ha, checkReg_names hb]; rfl
  | jmp ha => simp only [exec, execJmp, jumpToReg_names s ha]; rfl
  | jeqTaken he ha =>
    have hb := (branchTaken_jeq s.fl).trans he
    simp only [exec, execJeq, conditionalJump_taken _ hb, jumpToReg_names s ha]; rfl
  | jeqNotTaken a he =>
    have hb := (branchTaken_jeq s.fl).trans he
    simp only [exec, execJeq, conditionalJump_notTaken _ hb]; rfl
  | jneTaken he ha =>
    have hb : branchTaken .jne s.fl = true := by simp [he]
    simp only [exec, execJne, conditionalJump_taken _ hb, jumpToReg_names s ha]; rfl
  | jneNotTaken a he =>
    have hb : branchTaken .jne s.fl = false := by simp [he]
    simp only [exec, execJne, conditionalJump_notTaken _ hb]; rfl
  | hlt => rfl

theorem regFault_inRange {a : Byte} (h : a.toNat < 8) : regFault a = none :=
  regFault_names (i := ⟨a.toNat, h⟩) rfl

/-! ### What an instruction that completes writes -/

theorem InstrEffect.fr_eq (e : InstrEffect s i t) : t.fr = s.fr := by
  cases e <;> rfl

/-- An instruction that completes does not enter Faulted (R32). -/
theorem InstrEffect.rs_ne_faulted (e : InstrEffect s i t) (h : s.rs ≠ .faulted) : t.rs ≠ .faulted := by
  cases e with
  | hlt => simp
  | _ => exact h

/-- Of the instructions that complete only HLT writes RS, and none writes FR, SP_RESET or the host port. -/
theorem InstrEffect.controlKept (e : InstrEffect s i t) (h : i ≠ .hlt) : ControlKept s t := by
  cases e with
  | hlt => contradiction
  | _ => exact ⟨rfl, rfl, .inl ⟨rfl, rfl⟩⟩

theorem controlKept_raiseFault (c : FaultCause) (s : State) : ControlKept s (raiseFault c s) :=
  ⟨rfl, rfl, .inr ⟨c, rfl⟩⟩

/-- R37: of the instructions that complete only PRN writes OUT, and it appends one byte. -/
theorem InstrEffect.prn_or_out_eq (e : InstrEffect s i t) :
    (∃ a r, i = .prn a ∧ Names a r ∧ t.out = s.out ++ [s.reg r]) ∨ t.out = s.out := by
  cases e with
  | prn ha => exact .inl ⟨_, _, rfl, ha, rfl⟩
  | _ => exact .inr rfl

/-- R55, R64: of the instructions that complete only PUSH and CALL write memory. -/
theorem InstrEffect.stores_or_mem_eq (e : InstrEffect s i t) :
    (∃ a, i = .push a ∨ i = .call a) ∨ t.mem = s.mem := by
  cases e with
  | push => exact .inl ⟨_, .inl rfl⟩
  | call => exact .inl ⟨_, .inr rfl⟩
  | _ => exact .inr rfl


/-- R25: LDI, MUL and ADD write the register `a` names and PC. -/
theorem InstrEffect.eq_setReg_of_writer {a : Byte} (e : InstrEffect s i t)
    (hi : ∃ b, i = .ldi a b ∨ i = .mul a b ∨ i = .add a b) :
    ∃ r v, Names a r ∧ t = (s.setReg r v).advance 3 := by
  obtain ⟨b, rfl | rfl | rfl⟩ := hi
  · cases e with | ldi _ ha => exact ⟨_, _, ha, rfl⟩
  · cases e with | mul ha _ => exact ⟨_, _, ha, rfl⟩
  · cases e with | add ha _ => exact ⟨_, _, ha, rfl⟩

/-- R25: PRN, CMP and the jumps write no register. -/
theorem InstrEffect.regs_eq_of_reader {a b : Byte} (e : InstrEffect s i t)
    (hi : i = .prn a ∨ i = .cmp a b ∨ i = .jmp a ∨ i = .jeq a ∨ i = .jne a) : t.regs = s.regs := by
  cases e with
  | prn | cmp | jmp | jeqTaken | jeqNotTaken | jneTaken | jneNotTaken => rfl
  | _ => simp at hi

/-! ### The next PC (R104) -/

/-- R27: an advance that stays below 512 does not wrap. -/
theorem State.advance_pc_toNat {n : Nat} (h : s.pc.toNat + n < 512) :
    (s.advance n).pc.toNat = s.pc.toNat + n := by
  rw [State.advance_pc, BitVec.toNat_add, BitVec.toNat_ofNat]
  omega

/-- R28: a jump target is the byte unchanged. -/
@[simp] theorem zext9_toNat (v : Byte) : (zext9 v).toNat = v.toNat := by
  rw [zext9, BitVec.toNat_setWidth]
  omega

/-- R104, R105: an instruction that completes at a fetchable PC leaves PC as the table says. -/
theorem InstrEffect.nextPcRule (e : InstrEffect s i t) (hpc : s.pc.toNat ≤ 253) : nextPcRule i s t := by
  have adv2 : (s.advance 2).pc.toNat = s.pc.toNat + 2 := State.advance_pc_toNat (by omega)
  have adv3 : (s.advance 3).pc.toNat = s.pc.toNat + 3 := State.advance_pc_toNat (by omega)
  cases e with
  | ldi | mul | add | cmp => exact adv3
  | prn | push | pop => exact adv2
  | call ha => exact ⟨_, ha, zext9_toNat _⟩
  | ret => exact zext9_toNat _
  | jmp ha => exact ⟨_, ha, zext9_toNat _⟩
  | jeqTaken he ha =>
    simp only [Machine.nextPcRule, he, if_true]
    exact ⟨_, ha, zext9_toNat _⟩
  | jeqNotTaken a he => simpa [Machine.nextPcRule, he] using adv2
  | jneTaken he ha =>
    simp only [Machine.nextPcRule, he, if_true]
    exact ⟨_, ha, zext9_toNat _⟩
  | jneNotTaken a he => simpa [Machine.nextPcRule, he] using adv2
  | hlt => rfl

end

/-! ### Cycles -/

section

variable {s s' : State}

theorem fetch_eq_latchAt (h : s.pc.toNat ≤ 253) : fetch s = .ok (latchAt s) := fetch_inRange (by omega)

/-- R102: the cycle of an opcode byte of no row. -/
theorem cycle_of_decode_error {l : Latch} {b : Byte} (hr : s.rs = .running) (hf : fetch s = .ok l)
    (hd : decode l = .error (.unknownOpcode b)) : cycle s = .next (raiseFault (.unknownOpcode b) s) := by
  simp only [cycle, hr, hf, dispatch, hd]

/-- R103: the cycle of a decoded instruction. -/
theorem cycle_of_decode_ok {l : Latch} {i : Instr} (hr : s.rs = .running) (hf : fetch s = .ok l)
    (hd : decode l = .ok i) : cycle s = exec i s := by
  simp only [cycle, hr, hf, dispatch, hd]

/-- R108: a running cycle answers the fault of `cycleFault`, else the effect of a decoded instruction. -/
theorem cycle_fault_or_effect (hr : s.rs = .running) (hpc : s.pc.toNat ≤ 256) :
    (∃ c, cycleFault s = some c ∧ cycle s = .next (raiseFault c s)) ∨
      ∃ i t, cycleFault s = none ∧ InstrEffect s i t ∧ cycle s = .next t := by
  by_cases h : 254 ≤ s.pc.toNat
  · exact .inl ⟨_, if_pos h, cycle_of_fetch_error hr (fetch_outOfRange h hpc)⟩
  have hf : fetch s = .ok (latchAt s) := fetch_eq_latchAt (by omega)
  by_cases hrow : ∃ op : Opcode, (latchAt s).ir = op.byte
  · obtain ⟨op, hop⟩ := hrow
    obtain ⟨i, hd⟩ : ∃ i, decode (latchAt s) = .ok i := ⟨_, decode_of_byte hop⟩
    have hfault : cycleFault s = faultTable i s := by simp only [cycleFault, h, if_false, hd]
    rw [hfault, cycle_of_decode_ok hr hf hd]
    obtain ⟨hnone, t, e, hx⟩ | hsome := exec_effect_or_fault i s
    · exact .inr ⟨i, t, hnone, e, hx⟩
    · exact .inl hsome
  · have hd := decode_of_no_byte (not_exists.mp hrow)
    exact .inl ⟨_, by simp only [cycleFault, h, if_false, hd], cycle_of_decode_error hr hf hd⟩

/-- R301: no entry of the fault table looks at the host port. -/
theorem faultTable_withPort (i : Instr) (s : State) (p : HostPort) :
    faultTable i { s with port := p } = faultTable i s := by
  cases i <;> rfl

theorem CoreTurn.cycleFault_eq (h : CoreTurn s s') : cycleFault s' = cycleFault s := by
  rw [h.eq_withPort]
  simp only [cycleFault, faultTable_withPort]
  rfl

theorem CoreTurn.fetch_eq (h : CoreTurn s s') : fetch s' = fetch s := by
  rw [h.eq_withPort]
  rfl

theorem CoreTurn.fr (h : CoreTurn s s') : s'.fr = s.fr := by rw [h.eq_withPort]

/-- R300: each fault that is taken has one of the three causes. -/
theorem raiseFault_cause_cases (c : FaultCause) (s : State) :
    (∃ a, (raiseFault c s).fr.cause = some (.addressOutOfRange a)) ∨
      (∃ r, (raiseFault c s).fr.cause = some (.registerOutOfRange r)) ∨
        ∃ b, (raiseFault c s).fr.cause = some (.unknownOpcode b) := by
  cases c with
  | addressOutOfRange a => exact .inl ⟨a, rfl⟩
  | registerOutOfRange r => exact .inr (.inl ⟨r, rfl⟩)
  | unknownOpcode b => exact .inr (.inr ⟨b, rfl⟩)

/-- R82: the latched opcode byte is that of the decoded instruction. -/
theorem ir_eq_byte_of_decode {l : Latch} {i : Instr} (h : decode l = .ok i) : l.ir = i.opcode.byte := by
  obtain ⟨op, hop, rfl⟩ := decode_eq_ok_iff.mp h
  rw [hop, opcode_assemble]

end

/-! ### The statements about the cycle -/

/-- Settles O8: the three fetched bytes are rejected by the decoder with the byte at PC. -/
theorem unknownOpcodeEndsTheRun : Obligations.UnknownOpcodeEndsTheRun := by
  unfold Obligations.UnknownOpcodeEndsTheRun
  intro s s' hturn hrun hpc hrow
  have hfetch : fetch s' = .ok (latchAt s) := hturn.fetch_eq.trans (fetch_eq_latchAt hpc)
  have hdecode : decode (latchAt s) = .error (.unknownOpcode (s.mem.byte s.pc.toNat)) :=
    decode_of_no_byte fun op => (hrow op).symm
  rw [hturn.step_eq_cycle, cycle_of_decode_error (hturn.rs.trans hrun) hfetch hdecode, ← hturn.pc]
  rfl

/-- Settles O10: the cycle the step runs answers `cycleFault`, which the schedule does not enter, or the effect of an
instruction, which keeps FR and is not Faulted. -/
theorem cycleReportsTheFirstFault : Obligations.CycleReportsTheFirstFault := by
  unfold Obligations.CycleReportsTheFirstFault
  intro s s' hturn hrun hpc
  have hrun' : s'.rs = .running := hturn.rs.trans hrun
  rw [hturn.step_eq_cycle, ← hturn.cycleFault_eq, ← hturn.fr]
  obtain ⟨c, hf, hc⟩ | ⟨i, t, hf, e, hc⟩ := cycle_fault_or_effect hrun' (by rwa [hturn.pc])
  · refine ⟨fun c' hc' => ?_, fun hnone => ?_⟩
    · cases hf.symm.trans hc'
      exact hc
    · cases hf.symm.trans hnone
  · refine ⟨fun c' hc' => ?_, fun _ => ⟨t, hc, e.rs_ne_faulted (by simp [hrun']), e.fr_eq⟩⟩
    cases hf.symm.trans hc'

/-- Settles O12: an effect meets the table and is not Faulted; a fault keeps PC. -/
theorem nextPcSelection : Obligations.NextPcSelection := by
  unfold Obligations.NextPcSelection
  intro i s t hrun hpc hx
  obtain ⟨-, e⟩ | ⟨c, -, rfl⟩ := exec_cases hx
  · exact ⟨fun _ => e.nextPcRule hpc, fun hfault => absurd hfault (e.rs_ne_faulted (by simp [hrun]))⟩
  · exact ⟨fun hne => absurd rfl hne, fun _ => rfl⟩

/-- Settles O13: a fetch error, an unknown opcode and a faulting instruction each take one fault; an instruction that
completes leaves Running only if it is the HLT whose byte was fetched. -/
theorem runEndsOnlyByHaltOrFault : Obligations.RunEndsOnlyByHaltOrFault := by
  unfold Obligations.RunEndsOnlyByHaltOrFault
  intro s s' hturn hrun
  have hrun' : s'.rs = .running := hturn.rs.trans hrun
  rw [hturn.step_eq_cycle, ← hturn.fetch_eq]
  obtain ⟨hr, -⟩ | ⟨-, c, -, hc⟩ | ⟨-, l, -, -, hc⟩ | ⟨-, l, i, hf, hd, hc⟩ := cycle_cases s'
  · exact absurd hrun' hr
  · exact ⟨_, hc, .inr (.inr ⟨rfl, raiseFault_cause_cases c s'⟩)⟩
  · exact ⟨_, hc, .inr (.inr ⟨rfl, raiseFault_cause_cases _ s'⟩)⟩
  rw [hc]
  obtain ⟨-, t, e, hx⟩ | ⟨c, -, hx⟩ := exec_effect_or_fault i s'
  · refine ⟨t, hx, ?_⟩
    obtain rfl | hrs := e.hlt_or_rs_eq
    · cases e
      exact .inr (.inl ⟨rfl, l, hf, ir_eq_byte_of_decode hd, rfl⟩)
    · exact .inl (hrs.trans hrun')
  · exact ⟨_, hx, .inr (.inr ⟨rfl, raiseFault_cause_cases c s'⟩)⟩

/-! ### The statements about single instructions -/

/-- Settles O18: the operand check stands before the SP check, and the byte stored is R[a] of the state PUSH began
in. -/
theorem pushDecrementsThenStores : Obligations.PushDecrementsThenStores := by
  unfold Obligations.PushDecrementsThenStores
  intro a s
  refine ⟨rfl, fun i ha hsp => exec_of_effect (.push ha hsp), fun ha => exec_of_fault ?_,
    fun ha hsp => exec_of_fault ?_⟩
  · simp [faultTable, regFault_outOfRange ha]
  · simp [faultTable, regFault_inRange ha, pushFault_zero hsp]

/-- Settles O19: the operand check stands before the SP check, and R[a] is written after SP. -/
theorem popLoadsThenIncrements : Obligations.PopLoadsThenIncrements := by
  unfold Obligations.PopLoadsThenIncrements
  intro a s
  refine ⟨rfl, fun i ha hsp => exec_of_effect (.pop ha hsp), fun ha => exec_of_fault ?_,
    fun ha hsp => exec_of_fault ?_⟩
  · simp [faultTable, regFault_outOfRange ha]
  · simp [faultTable, regFault_inRange ha, popFault_top hsp]

/-- Settles O21: RET's one check is that of the pop. -/
theorem retPopsTheReturnAddress : Obligations.RetPopsTheReturnAddress := by
  unfold Obligations.RetPopsTheReturnAddress
  intro s
  exact ⟨rfl, fun hsp => exec_of_effect (.ret hsp), fun hsp => exec_of_fault (popFault_top hsp)⟩

/-- Settles O24: R220's branch is taken with E set, and checks its register only then. -/
theorem jeqJumpsWhenEqual : Obligations.JeqJumpsWhenEqual := by
  unfold Obligations.JeqJumpsWhenEqual
  intro a s
  refine ⟨rfl, fun i ha he => exec_of_effect (.jeqTaken he ha), fun ha he => exec_of_fault ?_,
    fun he => exec_of_effect (.jeqNotTaken a he)⟩
  simp [faultTable, he, regFault_outOfRange ha]

/-- Settles O25: R225's branch is taken with E clear, and checks its register only then. -/
theorem jneJumpsWhenNotEqual : Obligations.JneJumpsWhenNotEqual := by
  unfold Obligations.JneJumpsWhenNotEqual
  intro a s
  refine ⟨rfl, fun i ha he => exec_of_effect (.jneTaken he ha), fun ha he => exec_of_fault ?_,
    fun he => exec_of_effect (.jneNotTaken a he)⟩
  simp [faultTable, he, regFault_outOfRange ha]

/-- Settles O27: the effect of the three is one register write and an advance; a fault writes RS and FR alone. -/
theorem registerWritersFrame : Obligations.RegisterWritersFrame := by
  unfold Obligations.RegisterWritersFrame
  intro i a s t hi hx
  obtain ⟨-, e⟩ | ⟨c, -, rfl⟩ := exec_cases hx
  · obtain ⟨r, v, ha, rfl⟩ := e.eq_setReg_of_writer hi
    refine ⟨fun j hj => RegFile.get_set_ne s.regs v ?_, rfl, fun _ => rfl, rfl, rfl, rfl, .inl ⟨rfl, rfl⟩⟩
    rintro rfl
    exact hj ha
  · exact ⟨fun _ _ => rfl, rfl, fun _ => rfl, rfl, controlKept_raiseFault c s⟩

/-- Settles O28: of the instructions that complete only CMP writes the flags, only PRN writes OUT and only PUSH and CALL
write memory; a fault writes RS and FR alone. -/
theorem readersFrame : Obligations.ReadersFrame := by
  unfold Obligations.ReadersFrame
  rintro i s t ⟨a, b, hi⟩ hx
  obtain ⟨-, e⟩ | ⟨c, -, rfl⟩ := exec_cases hx
  · have hmem : t.mem = s.mem := e.stores_or_mem_eq.resolve_left (by rintro ⟨_, rfl | rfl⟩ <;> simp at hi)
    have hhlt : i ≠ .hlt := by rintro rfl; simp at hi
    refine ⟨e.regs_eq_of_reader hi, fun x => by rw [hmem], fun hcmp => ?_, fun hprn => ?_, ?_, e.controlKept hhlt⟩
    · exact e.cmp_or_fl_eq.resolve_left fun ⟨a, b, h⟩ => hcmp a b h
    · exact e.prn_or_out_eq.resolve_left fun ⟨a, _, h, _⟩ => hprn a h
    · obtain ⟨_, r, -, -, hout⟩ | hout := e.prn_or_out_eq
      · exact .inr ⟨s.reg r, hout⟩
      · exact .inl hout
  · exact ⟨rfl, fun _ => rfl, fun _ => rfl, fun _ => rfl, .inl rfl, controlKept_raiseFault c s⟩

end Sys2Proof.Machine

/-! ## Load-immediate and output: LDI and PRN -/

namespace Sys2Proof.Machine

/-- Settles O14: an operand that names a register meets the guard of LDI's one effect; the table's entry for LDI is the
check of that operand. -/
theorem ldiLoadsTheImmediate : Obligations.LdiLoadsTheImmediate := by
  unfold Obligations.LdiLoadsTheImmediate
  intro a imm s
  exact ⟨rfl, fun i ha => exec_of_effect (.ldi imm ha), fun ha => exec_of_fault (regFault_outOfRange ha)⟩

/-- Settles O15: PRN's effect emits the register its operand names, and the table's entry for PRN is the check of that
operand. -/
theorem prnEmitsTheRegister : Obligations.PrnEmitsTheRegister := by
  unfold Obligations.PrnEmitsTheRegister
  intro a s
  exact ⟨rfl, fun i ha => exec_of_effect (.prn ha), fun ha => exec_of_fault (regFault_outOfRange ha)⟩

end Sys2Proof.Machine

/-! ## Arithmetic: MUL and ADD -/

namespace Sys2Proof.Machine

/-! ### The result and the operand checks the two share -/

/-- R150: the byte kept of an exact result is that result modulo 256. -/
@[simp] theorem trunc8_toNat (n : Nat) : (trunc8 n).toNat = n % 256 := BitVec.toNat_ofNat n 8

/-- R150: the statements' form of the result, reduced before it becomes a byte, is the model's. -/
theorem ofNat_mod_256 (n : Nat) : BitVec.ofNat 8 (n % 256) = trunc8 n := by
  apply BitVec.eq_of_toNat_eq
  rw [BitVec.toNat_ofNat, trunc8_toNat]
  exact Nat.mod_mod n 256

/-- R150, for MUL and ADD alike: after the write and the advance the destination holds the exact result modulo 256. -/
theorem reg_setReg_trunc8_advance_toNat (s : State) (i : Fin 8) (n k : Nat) :
    (((s.setReg i (trunc8 n)).advance k).reg i).toNat = n % 256 := by
  simp [State.reg_eq]

/-- R106: the first operand's fault hides every later one. -/
theorem regFault_or_of_outOfRange {a : Byte} (f : Option FaultCause) (ha : 8 ≤ a.toNat) :
    (regFault a).or f = some (.registerOutOfRange a) := by
  rw [regFault_outOfRange ha, Option.some_or]

/-- R106: with the first operand in range the next check decides. -/
theorem regFault_or_of_inRange {a : Byte} (f : Option FaultCause) (ha : a.toNat < 8) : (regFault a).or f = f := by
  rw [regFault_inRange ha, Option.none_or]

/-- R108, decision D9: of two register operands the second is reported when only it is out of range. -/
theorem regFault_or_second {a b : Byte} (ha : a.toNat < 8) (hb : 8 ≤ b.toNat) :
    (regFault a).or (regFault b) = some (.registerOutOfRange b) :=
  (regFault_or_of_inRange _ ha).trans (regFault_outOfRange hb)

/-! ### The statements -/

/-- Settles O16: operands that name registers meet the guard of MUL's one effect; the table's entry for MUL is the check
of `a`, then that of `b`. -/
theorem mulStoresTheLowByte : Obligations.MulStoresTheLowByte := by
  unfold Obligations.MulStoresTheLowByte
  intro a b s
  refine ⟨rfl, fun i j ha hb => ?_, fun ha => exec_of_fault (regFault_or_of_outOfRange _ ha),
    fun ha hb => exec_of_fault (regFault_or_second ha hb)⟩
  rw [ofNat_mod_256]
  exact exec_of_effect (.mul ha hb)

/-- Settles O17: operands that name registers meet the guard of ADD's one effect; the table's entry for ADD is the check
of `a`, then that of `b`. -/
theorem addWrapsModulo256 : Obligations.AddWrapsModulo256 := by
  unfold Obligations.AddWrapsModulo256
  intro a b s
  refine ⟨rfl, fun i j ha hb => ?_, fun ha => exec_of_fault (regFault_or_of_outOfRange _ ha),
    fun ha hb => exec_of_fault (regFault_or_second ha hb)⟩
  rw [ofNat_mod_256]
  exact exec_of_effect (.add ha hb)

/-- Settles O45: with operands that name registers the effect of either is the write of the reduced result and an
advance, which keep FL and RS. -/
theorem arithmeticIsModulo256 : Obligations.ArithmeticIsModulo256 := by
  unfold Obligations.ArithmeticIsModulo256
  intro a b i j s ha hb
  exact ⟨⟨_, exec_of_effect (.add ha hb), reg_setReg_trunc8_advance_toNat s i _ 3, rfl, rfl⟩,
    ⟨_, exec_of_effect (.mul ha hb), reg_setReg_trunc8_advance_toNat s i _ 3, rfl, rfl⟩⟩

end Sys2Proof.Machine

/-! ## The stack: PUSH, CALL, POP and RET -/

namespace Sys2Proof.Machine

section

variable {i : Instr} {s s' t : State} {a : Byte}

/-! ### What the stack instructions write -/

/-- R170: where the decrement gives an address, SP is not 0 and the address is SP - 1. -/
theorem spDec_eq_ok {v : Byte} (h : spDec s = .ok v) : s.sp ≠ 0#8 ∧ s.sp - 1 = v := by
  by_cases hsp : s.sp = 0#8
  · rw [spDec_zero hsp] at h
    cases h
  · rw [spDec_pos hsp] at h
    exact ⟨hsp, Except.ok.inj h⟩

/-- R190: the return address is p + 2 reduced to a byte, at every PC. -/
theorem returnAddress_eq_ofNat (p : Pc) : returnAddress p = BitVec.ofNat 8 (p.toNat + 2) := by
  rw [returnAddress]
  bv_omega

/-- R301: PUSH and CALL fault on their operand and on SP = 0 only. -/
theorem faultTable_storing_eq_none {r : Fin 8} (hi : i = .push a ∨ i = .call a) (ha : Names a r)
    (hsp : s.sp ≠ 0#8) : faultTable i s = none := by
  obtain rfl | rfl := hi <;> simp only [faultTable, regFault_names ha, pushFault_pos hsp, Option.or_none]

/-- R170: PUSH and CALL write R7, the byte at the decremented SP, and PC; the byte is R[a] (R175) or p + 2 (R190). -/
theorem InstrEffect.eq_push_of_storing (e : InstrEffect s i t) (hi : i = .push a ∨ i = .call a) :
    ∃ r v p, Names a r ∧ s.sp ≠ 0#8 ∧ (i = .push a → v = s.reg r) ∧
      (i = .call a → v = BitVec.ofNat 8 (s.pc.toNat + 2)) ∧
      t = { s with regs := s.regs.set 7 (s.sp - 1), mem := s.mem.set (s.sp - 1).toNat v, pc := p } := by
  obtain rfl | rfl := hi
  · cases e with | push ha hsp => exact ⟨_, _, _, ha, hsp, fun _ => rfl, nofun, rfl⟩
  · cases e with
    | call ha hsp => exact ⟨_, _, _, ha, hsp, nofun, fun _ => returnAddress_eq_ofNat s.pc, rfl⟩

/-- R180, R195: POP and RET write registers and PC only, and of the registers R7 and the one POP names. -/
theorem InstrEffect.eq_withRegs_of_popping (e : InstrEffect s i t) (hi : i = .ret ∨ ∃ a, i = .pop a) :
    ∃ regs p, (∀ j : Fin 8, ¬ (j = 7 ∨ ∃ a, i = .pop a ∧ Names a j) → regs.get j = s.regs.get j) ∧
      t = { s with regs := regs, pc := p } := by
  obtain rfl | ⟨a, rfl⟩ := hi
  · cases e with | ret => exact ⟨_, _, fun j hj => RegFile.get_set_ne _ _ fun h => hj (.inl h), rfl⟩
  · cases e with
    | pop ha =>
      refine ⟨_, _, fun j hj => ?_, rfl⟩
      rw [State.setReg_regs, RegFile.get_set_ne _ _ (by rintro rfl; exact hj (.inr ⟨a, rfl, ha⟩))]
      exact RegFile.get_set_ne _ _ fun h => hj (.inl h)

/-! ### Fetched bytes -/

/-- R101: place `k` of the latch is the byte at PC + k. -/
theorem latchAt_getElem? (s : State) {k : Nat} (hk : k < 3) :
    [(latchAt s).ir, (latchAt s).a, (latchAt s).b][k]? = some (s.mem.byte (s.pc.toNat + k)) := by
  match k, hk with
  | 0, _ | 1, _ | 2, _ => rfl

/-- R103: a running step with the byte of a row at PC performs that row's instruction, with the operands as
fetched. -/
theorem CoreTurn.step_eq_exec {op : Opcode} (h : CoreTurn s s') (hrun : s.rs = .running) (hpc : s.pc.toNat ≤ 253)
    (hop : s.mem.byte s.pc.toNat = op.byte) :
    step s = exec (assemble op (latchAt s).a (latchAt s).b) s' :=
  h.step_eq_cycle.trans <|
    cycle_of_decode_ok (h.rs.trans hrun) (h.fetch_eq.trans (fetch_eq_latchAt hpc)) (decode_of_byte hop)

end

/-! ### The statements -/

/-- Settles O29: the effect of the two writes R7, the one byte and PC; a fault writes RS and FR alone, and does not
occur where the operand names a register and SP is not 0. -/
theorem storingInstructionsFrame : Obligations.StoringInstructionsFrame := by
  unfold Obligations.StoringInstructionsFrame
  intro i a s t hi hx
  obtain ⟨-, e⟩ | ⟨c, hf, rfl⟩ := exec_cases hx
  · obtain ⟨r, v, p, ha, hsp, hpush, hcall, rfl⟩ := e.eq_push_of_storing hi
    refine ⟨fun j hj => RegFile.get_set_ne _ _ hj, rfl, rfl, ⟨rfl, rfl, .inl ⟨rfl, rfl⟩⟩, fun w hw x hne => ?_,
      fun c hc => ?_, fun w r' hw hwf ha' => ?_⟩
    · obtain ⟨-, rfl⟩ := spDec_eq_ok hw
      exact Memory.byte_set_ne _ _ hne
    · cases (spDec_pos hsp).symm.trans hc
    · obtain ⟨-, rfl⟩ := spDec_eq_ok hw
      obtain rfl : r = r' := Fin.ext (ha.symm.trans ha')
      rw [Memory.byte_set_self _ _ hwf]
      split
      · exact hpush ‹_›
      · exact hcall (hi.resolve_left ‹_›)
  · refine ⟨fun _ _ => rfl, rfl, rfl, controlKept_raiseFault c s, fun _ _ _ _ => rfl, fun _ _ _ => rfl,
      fun w r hw _ ha => ?_⟩
    cases (faultTable_storing_eq_none hi ha (spDec_eq_ok hw).1).symm.trans hf

/-- Settles O30: the effect of the two writes registers and PC alone; a fault writes RS and FR alone. -/
theorem poppingInstructionsFrame : Obligations.PoppingInstructionsFrame := by
  unfold Obligations.PoppingInstructionsFrame
  intro i s t hi hx
  obtain ⟨-, e⟩ | ⟨c, -, rfl⟩ := exec_cases hx
  · obtain ⟨regs, p, hregs, rfl⟩ := e.eq_withRegs_of_popping hi
    exact ⟨hregs, rfl, fun _ => rfl, rfl, rfl, rfl, .inl ⟨rfl, rfl⟩⟩
  · exact ⟨fun _ _ => rfl, rfl, fun _ => rfl, rfl, controlKept_raiseFault c s⟩

/-- Settles O49: PUSH and CALL complete here, and the fetch latches the memory they leave, in which the byte at SP - 1
is the one stored. -/
theorem storedCodeIsFetchedNext : Obligations.StoredCodeIsFetchedNext := by
  unfold Obligations.StoredCodeIsFetchedNext
  intro i a s t k hi ha hsp hwf hx hpc hk haddr
  obtain ⟨-, e⟩ | ⟨c, hf, -⟩ := exec_cases hx
  · obtain ⟨r, v, p, hr, -, hpush, hcall, rfl⟩ := e.eq_push_of_storing hi
    refine ⟨_, fetch_eq_latchAt hpc, haddr ▸ latchAt_getElem? _ hk, fun r' hr' hi' => ?_, fun hi' => ?_⟩
    · obtain rfl : r = r' := Fin.ext (hr.symm.trans hr')
      exact (Memory.byte_set_self _ v hwf).trans (hpush hi')
    · exact (Memory.byte_set_self _ v hwf).trans (hcall hi')
  · cases (faultTable_storing_eq_none (r := ⟨a.toNat, ha⟩) hi rfl hsp).symm.trans hf

/-- Settles O50: the operand of the instruction performed is the byte fetched at p + 1, and SP - 1 = p + 1 is where
its effect stores. -/
theorem operandsAreLatchedAtFetch : Obligations.OperandsAreLatchedAtFetch := by
  unfold Obligations.OperandsAreLatchedAtFetch
  intro s s' a r hturn hrun hpc hwf hsp hop ha
  subst hop
  have hpos : s.sp ≠ 0#8 := fun h => by simp [h] at hsp
  have haddr : (s.sp - 1).toNat = s.pc.toNat + 1 := by bv_omega
  have hstored (v : Byte) : (s.mem.set (s.sp - 1).toNat v).byte (s.pc.toNat + 1) = v := by
    rw [haddr, Memory.byte_set_self _ v hwf]
  obtain ⟨p, rfl⟩ : ∃ p, s' = { s with port := p } := ⟨_, hturn.eq_withPort⟩
  have hnext : s.pc.toNat + 2 < 512 := by omega
  refine ⟨fun hb => ?_, fun hb => ?_⟩
  · exact ⟨_, (hturn.step_eq_exec (op := .push) hrun hpc hb).trans (exec_of_effect (.push ha hpos)), hrun,
      hstored _, State.advance_pc_toNat hnext⟩
  · exact ⟨_, (hturn.step_eq_exec (op := .call) hrun hpc hb).trans (exec_of_effect (.call ha hpos)), hrun,
      (hstored _).trans (returnAddress_eq_ofNat s.pc), zext9_toNat _⟩

end Sys2Proof.Machine

/-! ## Call and return: CALL -/

namespace Sys2Proof.Machine

/-- Settles O20: an operand that names a register and SP not 0 meet the guards of CALL's one effect, which stores the
return address; the table's entry for CALL is the check of `a`, then that of SP. -/
theorem callPushesTheReturnAddress : Obligations.CallPushesTheReturnAddress := by
  unfold Obligations.CallPushesTheReturnAddress
  intro a s _
  refine ⟨rfl, fun i ha hsp => ?_, fun ha => exec_of_fault (regFault_or_of_outOfRange _ ha),
    fun ha hsp => exec_of_fault ((regFault_or_of_inRange _ ha).trans (pushFault_zero hsp))⟩
  rw [← returnAddress_eq_ofNat]
  exact exec_of_effect (.call ha hsp)

end Sys2Proof.Machine

/-! ## Compare and branch: CMP and JMP -/

namespace Sys2Proof.Machine

/-- Settles O22: operands that name registers meet the guard of CMP's one effect, which writes the three flags from the
unsigned comparison; the table's entry for CMP is the check of `a`, then that of `b`. -/
theorem cmpSetsAllThreeFlags : Obligations.CmpSetsAllThreeFlags := by
  unfold Obligations.CmpSetsAllThreeFlags
  intro a b s
  exact ⟨rfl, fun i j ha hb => exec_of_effect (.cmp ha hb), fun ha => exec_of_fault (regFault_or_of_outOfRange _ ha),
    fun ha hb => exec_of_fault (regFault_or_second ha hb)⟩

/-- Settles O23: an operand that names a register meets the guard of JMP's one effect, the jump to that register; the
table's entry for JMP is the check of that operand. -/
theorem jmpGoesToTheRegister : Obligations.JmpGoesToTheRegister := by
  unfold Obligations.JmpGoesToTheRegister
  intro a s
  exact ⟨rfl, fun i ha => exec_of_effect (.jmp ha), fun ha => exec_of_fault (regFault_outOfRange ha)⟩

end Sys2Proof.Machine

/-! ## The host port: reads -/

namespace Sys2Proof.Machine

/-- R40: every run state but Running is one in which the reads are accepted. -/
theorem hostMayRead_of_not_running {rs : RunState} (h : rs ≠ .running) : hostMayRead rs = true := by
  cases rs with
  | running => contradiction
  | idle | halted | faulted => rfl

theorem hostRead_of_not_running (f : State → HostReply) {s : State} (h : s.rs ≠ .running) :
    hostRead f s = s.reply (f s) :=
  if_pos (hostMayRead_of_not_running h)

theorem step_of_command {s : State} {c : HostCmd} {q : List (Option HostCmd)} (hp : s.port.pending = some c :: q) :
    step s = hostCommand c (s.setPending q) := by
  simp only [step, hp]

/-- R40: a command that is a read answers what it reads, and writes the host port alone. -/
theorem step_of_read {s : State} {c : HostCmd} {q : List (Option HostCmd)} (f : State → HostReply)
    (hr : s.rs ≠ .running) (hp : s.port.pending = some c :: q) (hc : ∀ t, hostCommand c t = .next (hostRead f t)) :
    step s = .next { s with port := answered s q (f (s.setPending q)) } :=
  calc step s = hostCommand c (s.setPending q) := step_of_command hp
    _ = .next (hostRead f (s.setPending q)) := hc _
    _ = .next ((s.setPending q).reply (f (s.setPending q))) := by
      rw [hostRead_of_not_running f (s := s.setPending q) hr]

theorem memAnswer_inRange {n : Nat} (s : State) (h : n < 256) : memAnswer n s = .byteValue (s.mem.byte n) := by
  rw [memAnswer, memRead_inRange s (by omega) (by omega)]
  rfl

theorem memAnswer_outOfRange {addr : Int} (s : State) (h : addr < 0 ∨ 256 ≤ addr) :
    memAnswer addr s = .addressOutOfRange addr := by
  rw [memAnswer, memRead_outOfRange s h]

/-- R48: E, G and L at the weights of bits 0, 1 and 2. -/
theorem Flags.toByte_toNat (f : Flags) : f.toByte.toNat = f.e.toNat + 2 * f.g.toNat + 4 * f.l.toNat := by
  obtain ⟨_ | _, _ | _, _ | _⟩ := f <;> rfl

/-- Settles O55: each of the six commands is a read, which is accepted here; the answers of `read_mem` are the two
branches of the bounds check of R51, and that of `read_fl` is the byte of R48. -/
theorem hostReadsReturnTheState : Obligations.HostReadsReturnTheState := by
  unfold Obligations.HostReadsReturnTheState
  intro s q hr
  refine ⟨fun n hn hp => ?_, fun addr hout hp => ?_, fun i hp => ?_, fun hp => ?_, fun hp => ?_, fun hp => ?_⟩
  · rw [step_of_read (memAnswer n) hr hp fun _ => rfl, memAnswer_inRange _ hn, State.setPending_mem]
  · rw [step_of_read (memAnswer addr) hr hp fun _ => rfl, memAnswer_outOfRange _ hout]
  · exact step_of_read (fun t => .byteValue (t.reg i)) hr hp fun _ => rfl
  · exact ⟨s.fl.toByte, step_of_read (fun t => .byteValue t.fl.toByte) hr hp fun _ => rfl, s.fl.toByte_toNat⟩
  · exact step_of_read (fun t => .pcValue t.pc) hr hp fun _ => rfl
  · exact step_of_read (fun t => .outValue t.out) hr hp fun _ => rfl

end Sys2Proof.Machine

/-! ## The fault table -/

namespace Sys2Proof.Machine

/-- R32, R240: an instruction that completes leaves RS as it was, but HLT ends Halted. -/
theorem InstrEffect.rs_eq {i : Instr} {s t : State} (e : InstrEffect s i t) :
    t.rs = if i = .hlt then .halted else s.rs := by
  cases e with
  | hlt => exact (if_pos rfl).symm
  | _ => exact (if_neg nofun).symm

/-- Settles O9: an answer of the table is what `exec` raises; where it names no fault, `exec` answers the instruction's
effect, which writes FR never and RS for HLT alone. -/
theorem instructionFaultsExactlyByTheTable : Obligations.InstructionFaultsExactlyByTheTable := by
  unfold Obligations.InstructionFaultsExactlyByTheTable
  intro i s
  refine ⟨fun c hfault => exec_of_fault hfault, fun hnone => ?_⟩
  obtain ⟨-, t, e, hx⟩ | ⟨c, hfault, -⟩ := exec_effect_or_fault i s
  · exact ⟨t, hx, e.fr_eq, e.rs_eq⟩
  · cases hnone.symm.trans hfault

end Sys2Proof.Machine

/-! ## Decode and encode, and the illegal opcode bytes -/

namespace Sys2Proof

/-- R80, R84: the operand bytes that follow the opcode byte are the ones the row assembles; later bytes are ignored. -/
theorem assemble_encode (i : Instr) (x y : Byte) :
    assemble i.opcode (Latch.ofBytes (encode i ++ [x, y])).a (Latch.ofBytes (encode i ++ [x, y])).b = i := by
  cases i <;> rfl

theorem ir_encode (i : Instr) (x y : Byte) : (Latch.ofBytes (encode i ++ [x, y])).ir = i.opcode.byte := by
  cases i <;> rfl

/-- R88: the length of an assembled instruction is that of its row. -/
theorem length_assemble (op : Opcode) (a b : Byte) : (assemble op a b).length = 1 + op.operandCount := by
  rw [Instr.length, operands_length, opcode_assemble]

/-- R81, R84: an assembled instruction encodes to its opcode byte and as many of the operand bytes as its row has. -/
theorem encode_assemble (op : Opcode) (a b : Byte) :
    encode (assemble op a b) = [op.byte, a, b].take (1 + op.operandCount) := by
  cases op <;> rfl

theorem operandCount_le (op : Opcode) : op.operandCount ≤ 2 := by
  cases op <;> decide

/-- Settles O5: the opcode byte of an encoding selects its row, which assembles the operands that follow; and the
instruction assembled for a row has that row's length. -/
theorem decodeEncodeAgree : Obligations.DecodeEncodeAgree := by
  unfold Obligations.DecodeEncodeAgree
  refine ⟨fun i x y => ?_, fun l i h => ?_⟩
  · rw [decode_of_byte (ir_encode i x y), assemble_encode]
  · obtain ⟨op, hop, rfl⟩ := decode_eq_ok_iff.mp h
    have hcount := operandCount_le op
    rw [length_assemble, hop]
    exact ⟨encode_assemble op l.a l.b, by omega, by omega⟩

/-- R86: the listed ranges are exactly the bytes of no row. -/
theorem illegalOpcode_iff {b : Byte} : illegalOpcode b = true ↔ ∀ op : Opcode, b ≠ op.byte := by
  constructor
  · rintro h op rfl
    revert h
    cases op <;> decide
  · intro h
    have row : ∀ op ∈ Opcode.all, b.toNat ≠ op.byte.toNat := fun op _ heq => h op (BitVec.eq_of_toNat_eq heq)
    simp only [Opcode.all, List.forall_mem_cons, Opcode.byte, BitVec.toNat_ofNat] at row
    have hb := b.isLt
    simp only [illegalOpcode, decide_eq_true_eq]
    omega

/-- R86: the count, over all 256 byte values. -/
theorem illegalOpcode_count : (List.range 256).countP (fun n => illegalOpcode (BitVec.ofNat 8 n)) = 243 := by
  decide +kernel

/-- R86, R102: the decoder rejects the listed ranges. -/
theorem decode_eq_unknownOpcode_iff {l : Latch} :
    decode l = .error (.unknownOpcode l.ir) ↔ illegalOpcode l.ir = true := by
  refine ⟨fun h => illegalOpcode_iff.mpr fun op hop => ?_, fun h => decode_of_no_byte (illegalOpcode_iff.mp h)⟩
  cases (decode_of_byte hop).symm.trans h

/-- R86, R82: the decoder accepts every other byte. -/
theorem exists_decode_eq_ok_iff {l : Latch} : (∃ i, decode l = .ok i) ↔ illegalOpcode l.ir = false := by
  rw [← Bool.not_eq_true, illegalOpcode_iff, not_forall_not]
  constructor
  · rintro ⟨i, h⟩
    obtain ⟨op, hop, -⟩ := decode_eq_ok_iff.mp h
    exact ⟨op, hop⟩
  · rintro ⟨op, hop⟩
    exact ⟨_, decode_of_byte hop⟩

/-- Settles O3: R86's ranges are the complement of the 13 rows, by arithmetic on the byte's value. -/
theorem illegalOpcodesAreExactlyTheListedRanges : Obligations.IllegalOpcodesAreExactlyTheListedRanges := by
  unfold Obligations.IllegalOpcodesAreExactlyTheListedRanges
  exact ⟨fun l => decode_eq_unknownOpcode_iff.symm, fun l => exists_decode_eq_ok_iff.symm, illegalOpcode_count⟩

/-- Settles O1: the first byte of each word is the byte of a row, which assembles the other two. -/
theorem decodeReadsTheTableWords : Obligations.DecodeReadsTheTableWords := by
  unfold Obligations.DecodeReadsTheTableWords
  exact ⟨decode_of_byte (op := .ldi) rfl, decode_of_byte (op := .prn) rfl, decode_of_byte (op := .mul) rfl,
    decode_of_byte (op := .add) rfl, decode_of_byte (op := .push) rfl, decode_of_byte (op := .pop) rfl,
    decode_of_byte (op := .call) rfl, decode_of_byte (op := .ret) rfl, decode_of_byte (op := .cmp) rfl,
    decode_of_byte (op := .jmp) rfl, decode_of_byte (op := .jeq) rfl, decode_of_byte (op := .jne) rfl,
    decode_of_byte (op := .hlt) rfl⟩

/-- Settles O4: each of the three properties is read off the 13 rows. -/
theorem opcodeBitsShowCountAndClass : Obligations.OpcodeBitsShowCountAndClass := by
  unfold Obligations.OpcodeBitsShowCountAndClass
  intro op
  refine ⟨?_, ?_, ?_⟩ <;> cases op <;> decide

end Sys2Proof

/-! ## The invariant of every step -/

namespace Sys2Proof.Machine

/-! ### What a step can do -/

/-- The faults a running cycle can take, with their origin: the fetch, the opcode byte, or the instruction's entry in
the table of R301. -/
inductive CycleRaises (s : State) : FaultCause → Prop where
  | fetch {c : FaultCause} (hf : fetch s = .error c) : CycleRaises s c
  | opcode {l : Latch} (hf : fetch s = .ok l) (hd : decode l = .error (.unknownOpcode l.ir)) :
      CycleRaises s (.unknownOpcode l.ir)
  | instr {l : Latch} {i : Instr} {c : FaultCause} (hf : fetch s = .ok l) (hd : decode l = .ok i)
      (hc : faultTable i s = some c) : CycleRaises s c

/-- Everything a step can do: serve a host command, stay where no cycle runs, take a fault, or complete the fetched
instruction. -/
inductive StepEffect (s : State) : State → Prop where
  | command {c : HostCmd} {q : List (Option HostCmd)} {u : State} (p : HostPort)
      (hp : s.port.pending = some c :: q) (e : HostEffect (s.setPending q) c u) : StepEffect s { u with port := p }
  | stay {s' : State} (h : CoreTurn s s') (hr : s.rs ≠ .running) : StepEffect s s'
  | fault {s' : State} {c : FaultCause} (h : CoreTurn s s') (hr : s.rs = .running) (hc : CycleRaises s' c) :
      StepEffect s (raiseFault c s')
  | instr {s' t : State} {l : Latch} {i : Instr} (h : CoreTurn s s') (hr : s.rs = .running)
      (hf : fetch s' = .ok l) (hd : decode l = .ok i) (e : InstrEffect s' i t) : StepEffect s t

section

variable {s s' t u : State} {i : Instr} {c : HostCmd}

/-- R100 to R103: the cycle of the core's own step. -/
theorem CoreTurn.exists_stepEffect (h : CoreTurn s s') : ∃ t, cycle s' = .next t ∧ StepEffect s t := by
  obtain ⟨hr, hc⟩ | ⟨hr, c, hf, hc⟩ | ⟨hr, l, hf, hd, hc⟩ | ⟨hr, l, i, hf, hd, hc⟩ := cycle_cases s' <;>
    rw [h.rs] at hr
  · exact ⟨_, hc, .stay h hr⟩
  · exact ⟨_, hc, .fault h hr (.fetch hf)⟩
  · exact ⟨_, hc, .fault h hr (.opcode hf hd)⟩
  · rw [hc]
    obtain ⟨-, t, e, hx⟩ | ⟨c, htable, hx⟩ := exec_effect_or_fault i s'
    · exact ⟨t, hx, .instr h hr hf hd e⟩
    · exact ⟨_, hx, .fault h hr (.instr hf hd htable)⟩

/-- A step answers a next state with one of the effects above, or refuses a start after a refused load (D20). -/
theorem step_effect_or_refused (s : State) :
    (∃ t, step s = .next t ∧ StepEffect s t) ∨
      (step s = .refused .startAfterRefusedLoad ∧ s.rs = .idle ∧ s.port.loadRefused = true ∧
        ∃ q, s.port.pending = some .start :: q) := by
  obtain ⟨hp, hs⟩ | ⟨q, hp, hs⟩ | ⟨c, q, hp, hs⟩ := step_cases s
  · rw [hs]
    exact .inl (CoreTurn.exists_stepEffect (.inl ⟨hp, rfl⟩))
  · rw [hs]
    exact .inl (CoreTurn.exists_stepEffect (.inr ⟨q, hp, rfl⟩))
  · rw [hs]
    obtain ⟨rfl, hidle, hload, hc⟩ | ⟨u, p, e, hc⟩ := hostCommand_cases c (s.setPending q)
    · exact .inr ⟨hc, hidle, hload, q, hp⟩
    · exact .inl ⟨_, hc, .command p hp e⟩

/-- The inversion of `step`. -/
theorem step_effect (h : step s = .next t) : StepEffect s t := by
  obtain ⟨t', hs, e⟩ | ⟨hs, -⟩ := step_effect_or_refused s
  · cases hs.symm.trans h
    exact e
  · cases hs.symm.trans h

/-! ### The invariant under the parts of a step -/

/-- No clause of the invariant looks at the host port. -/
theorem StepInv.withPort (h : StepInv s) (p : HostPort) : StepInv { s with port := p } :=
  ⟨h.memory, h.pc, h.noFault, h.fault, h.halted⟩

theorem CoreTurn.stepInv (h : CoreTurn s s') (hs : StepInv s) : StepInv s' := by
  rw [h.eq_withPort]
  exact hs.withPort _

/-- In Idle and Running the invariant asks for canonical memory, a PC in range and an empty FR. -/
theorem StepInv.of_live (hm : s.mem.wf = true) (hpc : s.pc.toNat ≤ 256) (hfr : s.fr = .empty)
    (hlive : s.rs = .idle ∨ s.rs = .running) : StepInv s where
  memory := hm
  pc := hpc
  noFault _ := hfr
  fault h := by simp [h] at hlive
  halted h := by simp [h] at hlive

theorem stepInv_resetWith (sp : Byte) : StepInv (State.resetWith sp) :=
  .of_live rfl (Nat.zero_le _) rfl (.inl rfl)

/-- R107: PC stays, so FR names the PC and the byte there. -/
theorem StepInv.raiseFault {c : FaultCause} (h : StepInv s) (hc : causeFits s c) : StepInv (raiseFault c s) where
  memory := h.memory
  pc := h.pc
  noFault hne := absurd rfl hne
  fault _ := ⟨c, rfl, by cases c <;> exact hc⟩
  halted := nofun

/-- R300: the index of a register fault is 8 or more. -/
theorem causeFits_of_regFault {a : Byte} {c : FaultCause} (h : regFault a = some c) : causeFits s c := by
  by_cases ha : 8 ≤ a.toNat
  · cases (regFault_outOfRange ha).symm.trans h
    exact ha
  · cases (regFault_inRange (by omega)).symm.trans h

theorem causeFits_of_pushFault {c : FaultCause} (h : pushFault s = some c) : causeFits s c := by
  by_cases hsp : s.sp = 0#8
  · cases (pushFault_zero hsp).symm.trans h
    exact .inl rfl
  · cases (pushFault_pos hsp).symm.trans h

theorem causeFits_of_popFault {c : FaultCause} (h : popFault s = some c) : causeFits s c := by
  by_cases hsp : s.sp = 255#8
  · cases (popFault_top hsp).symm.trans h
    exact .inr rfl
  · cases (popFault_below hsp).symm.trans h

/-- R300, R301: every fault of the table has its information in range. -/
theorem causeFits_of_faultTable {c : FaultCause} (h : faultTable i s = some c) : causeFits s c := by
  cases i with
  | ldi | prn | jmp => exact causeFits_of_regFault h
  | mul | add | cmp =>
    obtain h | ⟨-, h⟩ := Option.or_eq_some_iff.mp h <;> exact causeFits_of_regFault h
  | push | call =>
    obtain h | ⟨-, h⟩ := Option.or_eq_some_iff.mp h
    · exact causeFits_of_regFault h
    · exact causeFits_of_pushFault h
  | pop =>
    obtain h | ⟨-, h⟩ := Option.or_eq_some_iff.mp h
    · exact causeFits_of_regFault h
    · exact causeFits_of_popFault h
  | ret => exact causeFits_of_popFault h
  | jeq =>
    obtain ⟨-, h⟩ := Option.ite_none_right_eq_some.mp h
    exact causeFits_of_regFault h
  | jne =>
    obtain ⟨-, h⟩ := Option.ite_none_left_eq_some.mp h
    exact causeFits_of_regFault h
  | hlt => cases h

/-- R101: a fetch that succeeds at a PC in range began below 254 and latched the three bytes there. -/
theorem latchAt_of_fetch {l : Latch} (hpc : s.pc.toNat ≤ 256) (h : fetch s = .ok l) :
    s.pc.toNat ≤ 253 ∧ l = latchAt s := by
  by_cases h254 : 254 ≤ s.pc.toNat
  · cases (fetch_outOfRange h254 hpc).symm.trans h
  · have hle : s.pc.toNat ≤ 253 := by omega
    cases (fetch_eq_latchAt hle).symm.trans h
    exact ⟨hle, rfl⟩

/-- R300: every fault a cycle can take has its information in range. -/
theorem CycleRaises.causeFits {c : FaultCause} (h : CycleRaises s c) (hpc : s.pc.toNat ≤ 256) : causeFits s c := by
  cases h with
  | fetch hf =>
    by_cases h254 : 254 ≤ s.pc.toNat
    · cases (fetch_outOfRange h254 hpc).symm.trans hf
      exact .inr rfl
    · cases (fetch_eq_latchAt (by omega)).symm.trans hf
  | opcode hf hd =>
    obtain ⟨-, rfl⟩ := latchAt_of_fetch hpc hf
    exact ⟨decode_eq_unknownOpcode_iff.mp hd, rfl⟩
  | instr _ _ hc => exact causeFits_of_faultTable hc

/-- R55: an instruction that completes keeps the canonical form of memory. -/
theorem InstrEffect.mem_wf (e : InstrEffect s i t) (h : s.mem.wf = true) : t.mem.wf = true := by
  cases e with
  | push | call => exact Memory.wf_set _ h (s.sp - 1).isLt
  | _ => exact h

/-- R26: from a fetchable PC an advance ends at 256 or below, and a jump below 256. -/
theorem InstrEffect.pc_le (e : InstrEffect s i t) (hpc : s.pc.toNat ≤ 253) : t.pc.toNat ≤ 256 := by
  have advance (n : Nat) (hn : n ≤ 3) : (s.advance n).pc.toNat ≤ 256 := by
    rw [State.advance_pc_toNat (by omega)]
    omega
  have jump (v : Byte) : (zext9 v).toNat ≤ 256 := by
    have := v.isLt
    rw [zext9_toNat]
    omega
  cases e with
  | ldi | mul | add | cmp => exact advance 3 (by omega)
  | prn | push | pop | jeqNotTaken | jneNotTaken => exact advance 2 (by omega)
  | call | ret | jmp | jeqTaken | jneTaken => exact jump _
  | hlt => exact hpc.trans (by omega)

/-- A completed instruction, fetched from a PC in range, keeps the invariant. -/
theorem InstrEffect.stepInv {l : Latch} (e : InstrEffect s i t) (h : StepInv s) (hr : s.rs = .running)
    (hf : fetch s = .ok l) (hd : decode l = .ok i) : StepInv t := by
  obtain ⟨hpc, rfl⟩ := latchAt_of_fetch h.pc hf
  have hfr : s.fr = .empty := h.noFault (by simp [hr])
  obtain rfl | hrs := e.hlt_or_rs_eq
  · cases e
    have hbyte : s.mem.byte s.pc.toNat = Opcode.byte .hlt := ir_eq_byte_of_decode hd
    exact { memory := h.memory, pc := h.pc, noFault := fun _ => hfr, fault := nofun,
            halted := fun _ => ⟨Nat.lt_succ_of_le hpc, hbyte⟩ }
  · exact .of_live (e.mem_wf h.memory) (e.pc_le hpc) (e.fr_eq.trans hfr) (.inr (hrs.trans hr))

/-- A host command keeps the invariant: what it writes in Idle stays canonical and in range. -/
theorem HostEffect.stepInv (e : HostEffect s c u) (h : StepInv s) : StepInv u := by
  have hfr (hidle : s.rs = .idle) : s.fr = .empty := h.noFault (by simp [hidle])
  cases e with
  | reset => exact stepInv_resetWith _
  | none => exact h
  | load v hidle hn => exact .of_live (Memory.wf_set v h.memory hn) h.pc (hfr hidle) (.inl hidle)
  | writeReg _ _ hidle | writeFl _ hidle => exact .of_live h.memory h.pc (hfr hidle) (.inl hidle)
  | writePc p hidle =>
    have hp : (BitVec.ofNat 9 p.val).toNat ≤ 256 := by
      rw [BitVec.toNat_ofNat]
      omega
    exact .of_live h.memory hp (hfr hidle) (.inl hidle)
  | start hidle => exact .of_live h.memory h.pc (hfr hidle) (.inr rfl)

end

/-- Settles O37: a command, a cycle that does not run, a fault and a completed instruction each keep the invariant. -/
theorem everyStepKeepsTheInvariant : Obligations.EveryStepKeepsTheInvariant := by
  unfold Obligations.EveryStepKeepsTheInvariant
  intro s t hs hstep
  cases step_effect hstep with
  | command p _ e => exact (e.stepInv (hs.withPort _)).withPort p
  | stay hturn _ => exact hturn.stepInv hs
  | fault hturn _ hc =>
    have hs' := hturn.stepInv hs
    exact hs'.raiseFault (hc.causeFits hs'.pc)
  | instr hturn hrun hf hd e => exact e.stepInv (hturn.stepInv hs) (hturn.rs.trans hrun) hf hd

/-- Settles O38: the reset state is Idle with the empty cell list, PC 0 and FR empty. -/
theorem resetMeetsTheInvariant : Obligations.ResetMeetsTheInvariant := by
  unfold Obligations.ResetMeetsTheInvariant
  exact ⟨stepInv_resetWith _, stepInv_resetWith⟩

end Sys2Proof.Machine

/-! ## Rules about every instruction and every step -/

namespace Sys2Proof.Machine

section

variable {s s' t u : State} {i : Instr} {c : HostCmd}

/-! ### Less and Greater -/

/-- R301: the one flag the fault table looks at is Equal. -/
theorem faultTable_withLessGreater (i : Instr) (s : State) (l g : Bool) :
    faultTable i (withLessGreater s l g) = faultTable i s := by
  cases i <;> rfl

/-- R231: an effect carries over to a state with other values of L and G, and ends alike in all else. -/
theorem InstrEffect.withLessGreater (e : InstrEffect s i t) (l g : Bool) :
    ∃ t', InstrEffect (withLessGreater s l g) i t' ∧ Machine.withLessGreater t' t.fl.l t.fl.g = t := by
  cases e with
  | ldi imm ha => exact ⟨_, .ldi imm ha, rfl⟩
  | prn ha => exact ⟨_, .prn ha, rfl⟩
  | mul ha hb => exact ⟨_, .mul ha hb, rfl⟩
  | add ha hb => exact ⟨_, .add ha hb, rfl⟩
  | push ha hsp => exact ⟨_, .push ha hsp, rfl⟩
  | pop ha hsp => exact ⟨_, .pop ha hsp, rfl⟩
  | call ha hsp => exact ⟨_, .call ha hsp, rfl⟩
  | ret hsp => exact ⟨_, .ret hsp, rfl⟩
  | cmp ha hb => exact ⟨_, .cmp ha hb, rfl⟩
  | jmp ha => exact ⟨_, .jmp ha, rfl⟩
  | jeqTaken he ha => exact ⟨_, .jeqTaken he ha, rfl⟩
  | jeqNotTaken a he => exact ⟨_, .jeqNotTaken a he, rfl⟩
  | jneTaken he ha => exact ⟨_, .jneTaken he ha, rfl⟩
  | jneNotTaken a he => exact ⟨_, .jneNotTaken a he, rfl⟩
  | hlt => exact ⟨_, .hlt, rfl⟩

/-- R31: two byte values are equal, or the first is less, or it is greater. -/
theorem compareFlags_cases (x y : Byte) :
    compareFlags x y = ⟨true, false, false⟩ ∨ compareFlags x y = ⟨false, true, false⟩ ∨
      compareFlags x y = ⟨false, false, true⟩ := by
  obtain h | h | h := Nat.lt_trichotomy x.toNat y.toNat
  · exact .inr (.inl (by simp [compareFlags, h, h.ne, h.le]))
  · exact .inl (by simp [compareFlags, h])
  · exact .inr (.inr (by simp [compareFlags, h, h.ne', h.le]))

/-! ### SP_RESET and OUT -/

theorem CoreTurn.spReset (h : CoreTurn s s') : s'.spReset = s.spReset := by rw [h.eq_withPort]

theorem InstrEffect.spReset_eq (e : InstrEffect s i t) : t.spReset = s.spReset := by
  cases e <;> rfl

theorem HostEffect.spReset_eq (e : HostEffect s c u) : u.spReset = s.spReset := by
  cases e <;> rfl

/-- R40: of the host commands only `reset` writes OUT. -/
theorem HostEffect.reset_or_out_eq (e : HostEffect s c u) : c = .reset ∨ u.out = s.out := by
  cases e with
  | reset => exact .inl rfl
  | _ => exact .inr rfl

/-- R38: what is appended to OUT is what the output port shows. -/
theorem outputEvents_of_append {vs : List Byte} (h : t.out = s.out ++ vs) : outputEvents s t = vs := by
  rw [outputEvents, h, List.drop_left]

theorem outputEvents_of_out_eq (h : t.out = s.out) : outputEvents s t = [] :=
  outputEvents_of_append (by rw [h, List.append_nil])

/-- R37: a step that serves no reset appends to OUT nothing, or the byte of the fetched PRN. -/
theorem StepEffect.out_cases (e : StepEffect s t) (hreset : ∀ q, s.port.pending ≠ some .reset :: q) :
    t.out = s.out ∨ ∃ a r, s.rs = .running ∧ (∃ l, fetch s = .ok l ∧ decode l = .ok (.prn a)) ∧ Names a r ∧
      t.out = s.out ++ [s.reg r] := by
  cases e with
  | command p hp e =>
    obtain rfl | hout := e.reset_or_out_eq
    · exact absurd hp (hreset _)
    · exact .inl hout
  | stay hturn _ =>
    rw [hturn.eq_withPort]
    exact .inl rfl
  | fault hturn _ _ =>
    rw [hturn.eq_withPort]
    exact .inl rfl
  | instr hturn hrun hf hd e =>
    rw [hturn.fetch_eq] at hf
    obtain ⟨p, rfl⟩ : ∃ p, _ = { s with port := p } := ⟨_, hturn.eq_withPort⟩
    obtain ⟨a, r, rfl, ha, hout⟩ | hout := e.prn_or_out_eq
    · exact .inr ⟨a, r, hrun, ⟨_, hf, hd⟩, ha, hout⟩
    · exact .inl hout

/-! ### The run state -/

/-- R32: of the host commands `reset` ends Idle, a `start` leaves Idle for Running, and no other writes RS. -/
theorem HostEffect.rs_cases (e : HostEffect s c u) :
    (c = .reset ∧ u.rs = .idle) ∨ (c = .start ∧ s.rs = .idle ∧ u.rs = .running) ∨ u.rs = s.rs := by
  cases e with
  | reset => exact .inl ⟨rfl, rfl⟩
  | start hidle => exact .inr (.inl ⟨rfl, hidle, rfl⟩)
  | _ => exact .inr (.inr rfl)

/-- R32: no instruction enters Idle. -/
theorem InstrEffect.rs_ne_idle (e : InstrEffect s i t) (h : s.rs ≠ .idle) : t.rs ≠ .idle := by
  obtain rfl | hrs := e.hlt_or_rs_eq
  · cases e
    nofun
  · rwa [hrs]

end

/-! ### The statements -/

/-- Settles O11: an instruction that completes is not Faulted, and a fault writes RS and FR alone. -/
theorem faultsArePrecise : Obligations.FaultsArePrecise := by
  unfold Obligations.FaultsArePrecise
  intro i s t hrun hx hfault
  obtain ⟨-, e⟩ | ⟨c, -, rfl⟩ := exec_cases hx
  · exact absurd hfault (e.rs_ne_faulted (by simp [hrun]))
  · exact ⟨c, rfl, rfl⟩

/-- Settles O32: CMP's effect writes the flags of one comparison, of which exactly one is true. -/
theorem compareSetsExactlyOneFlag : Obligations.CompareSetsExactlyOneFlag := by
  unfold Obligations.CompareSetsExactlyOneFlag
  intro a b s ha hb
  exact ⟨_, exec_of_effect (.cmp (i := ⟨a.toNat, ha⟩) (j := ⟨b.toNat, hb⟩) rfl rfl), rfl, compareFlags_cases _ _⟩

/-- Settles O33: neither the fault table nor an effect looks at L or G, and a fault keeps both. -/
theorem lessAndGreaterAreNeverConsumed : Obligations.LessAndGreaterAreNeverConsumed := by
  unfold Obligations.LessAndGreaterAreNeverConsumed
  intro i s l g
  obtain ⟨-, t, e, hx⟩ | ⟨c, htable, hx⟩ := exec_effect_or_fault i s
  · obtain ⟨t', e', heq⟩ := e.withLessGreater l g
    exact ⟨t, t', hx, exec_of_effect e', heq⟩
  · exact ⟨_, _, hx, exec_of_fault ((faultTable_withLessGreater i s l g).trans htable), rfl⟩

/-- Settles O34: a step leaves OUT as it was or appends the one byte of the fetched PRN, and the output port shows what
was appended. -/
theorem outputGrowsOneByteInOrder : Obligations.OutputGrowsOneByteInOrder := by
  unfold Obligations.OutputGrowsOneByteInOrder
  intro s t hstep hreset
  obtain hout | ⟨a, r, hrun, hprn, ha, hout⟩ := (step_effect hstep).out_cases hreset
  · rw [outputEvents_of_out_eq hout]
    exact ⟨by rw [hout, List.append_nil], .inl rfl⟩
  · rw [outputEvents_of_append hout]
    exact ⟨hout, .inr ⟨a, r, hrun, hprn, ha, rfl⟩⟩

/-- Settles O35: a command is a reset, a start or keeps RS; a cycle runs only in Running, and neither a fault nor an
instruction enters Idle. -/
theorem runStateTransitions : Obligations.RunStateTransitions := by
  unfold Obligations.RunStateTransitions
  intro s t hstep
  cases step_effect hstep with
  | command p hp e =>
    obtain ⟨rfl, hidle⟩ | ⟨rfl, hidle, hrun⟩ | hrs := e.rs_cases
    · exact .inl ⟨⟨_, hp⟩, hidle⟩
    · exact .inr (.inl ⟨⟨_, hp⟩, hidle, hrun⟩)
    · exact .inr (.inr (.inr hrs))
  | stay hturn _ => exact .inr (.inr (.inr hturn.rs))
  | fault hturn hrun _ => exact .inr (.inr (.inl ⟨⟨_, hturn⟩, hrun, nofun⟩))
  | instr hturn hrun _ _ e =>
    exact .inr (.inr (.inl ⟨⟨_, hturn⟩, hrun, e.rs_ne_idle (by simp [hturn.rs, hrun])⟩))

/-- Settles O36: out of Running no cycle runs, and out of Idle a command other than reset has no architectural
effect. -/
theorem terminalStatesStay : Obligations.TerminalStatesStay := by
  unfold Obligations.TerminalStatesStay
  intro s hterminal
  have hidle : s.rs ≠ .idle := by rintro h; simp [h] at hterminal
  have hrun : s.rs ≠ .running := by rintro h; simp [h] at hterminal
  refine ⟨fun s' hturn => ?_, fun c q hp hc => ?_⟩
  · rw [hturn.step_eq_cycle, cycle_of_not_running (by rwa [hturn.rs])]
  · rw [step_of_command hp]
    obtain ⟨-, hi, -⟩ | ⟨u, p, e, hx⟩ := hostCommand_cases c (s.setPending q)
    · exact absurd hi hidle
    · obtain rfl : u = s.setPending q := (e.reset_or_eq hidle).resolve_left hc
      exact ⟨p, hx⟩

/-- Settles O39: a host command, a fault and an instruction each leave the field alone; a reset copies it. -/
theorem noStepChangesSpReset : Obligations.NoStepChangesSpReset := by
  unfold Obligations.NoStepChangesSpReset
  intro s t hstep
  cases step_effect hstep with
  | command p _ e => exact e.spReset_eq
  | stay hturn _ => exact hturn.spReset
  | fault hturn _ _ => exact hturn.spReset
  | instr hturn _ _ _ e => exact e.spReset_eq.trans hturn.spReset

/-- Settles O40: every cycle answers a next state, and of the host commands only that start does not. -/
theorem stepStopsOnlyOnStartAfterRefusedLoad : Obligations.StepStopsOnlyOnStartAfterRefusedLoad := by
  unfold Obligations.StepStopsOnlyOnStartAfterRefusedLoad
  intro s
  exact (step_effect_or_refused s).imp_left fun ⟨t, hs, _⟩ => ⟨t, hs⟩

end Sys2Proof.Machine

/-! ## Memory and registers as data -/

namespace Sys2Proof.Machine

/-- The canonical form of a list with a first cell. -/
theorem Memory.wfFrom_cons {lo k : Nat} {v : Byte} {m : Memory} :
    Memory.wfFrom lo ((k, v) :: m) = true ↔ (lo ≤ k ∧ k < 256 ∧ v ≠ 0#8) ∧ m.wfFrom (k + 1) = true := by
  simp only [Memory.wfFrom, Bool.and_eq_true, decide_eq_true_eq]

@[simp] theorem Memory.byte_cons_self (k : Nat) (v : Byte) (m : Memory) : Memory.byte ((k, v) :: m) k = v := if_pos rfl

theorem Memory.byte_cons_ne {k a : Nat} (v : Byte) (m : Memory) (h : a ≠ k) :
    Memory.byte ((k, v) :: m) a = m.byte a := if_neg h.symm

/-- A canonical memory is canonical from its first address up. -/
theorem Memory.wfFrom_head {lo k : Nat} {v : Byte} {m : Memory} (h : Memory.wfFrom lo ((k, v) :: m) = true) :
    Memory.wfFrom k ((k, v) :: m) = true := by
  obtain ⟨⟨-, hcell⟩, hm⟩ := Memory.wfFrom_cons.mp h
  exact Memory.wfFrom_cons.mpr ⟨⟨le_rfl, hcell⟩, hm⟩

/-- Where a canonical memory lists its first cell, one that lists no cell so low reads otherwise. -/
theorem Memory.byte_head_ne {lo hi k : Nat} {v : Byte} {m n : Memory}
    (hm : Memory.wfFrom lo ((k, v) :: m) = true) (hn : n.wfFrom hi = true) (hk : k < hi) :
    Memory.byte ((k, v) :: m) k ≠ n.byte k := by
  obtain ⟨⟨-, -, hv⟩, -⟩ := Memory.wfFrom_cons.mp hm
  rw [Memory.byte_cons_self, Memory.byte_below hn hk]
  exact hv

/-- Canonical memories that read alike list the same cells: their first cells agree, and then so do their tails. -/
theorem Memory.eq_of_byte_eq {m n : Memory} {lo lo' : Nat} (hm : m.wfFrom lo = true) (hn : n.wfFrom lo' = true)
    (h : ∀ a : Nat, a < 256 → m.byte a = n.byte a) : m = n := by
  have nil_wf (hi : Nat) : Memory.wfFrom hi [] = true := rfl
  induction m generalizing n lo lo' with
  | nil =>
    cases n with
    | nil => rfl
    | cons d n =>
      obtain ⟨k', v'⟩ := d
      obtain ⟨⟨-, hk', -⟩, -⟩ := Memory.wfFrom_cons.mp hn
      exact absurd (h k' hk').symm (Memory.byte_head_ne hn (nil_wf _) (Nat.lt_succ_self k'))
  | cons c m ih =>
    obtain ⟨k, v⟩ := c
    obtain ⟨⟨-, hk, -⟩, hm'⟩ := Memory.wfFrom_cons.mp hm
    cases n with
    | nil => exact absurd (h k hk) (Memory.byte_head_ne hm (nil_wf _) (Nat.lt_succ_self k))
    | cons d n =>
      obtain ⟨k', v'⟩ := d
      obtain ⟨⟨-, hk', -⟩, hn'⟩ := Memory.wfFrom_cons.mp hn
      obtain hlt | rfl | hgt := Nat.lt_trichotomy k k'
      · exact absurd (h k hk) (Memory.byte_head_ne hm (Memory.wfFrom_head hn) hlt)
      · have hbyte := h k hk
        rw [Memory.byte_cons_self, Memory.byte_cons_self] at hbyte
        rw [hbyte, ih hm' hn' fun a ha => ?_]
        by_cases hak : a = k
        · rw [Memory.byte_below hm' (by omega), Memory.byte_below hn' (by omega)]
        · simpa only [Memory.byte_cons_ne _ _ hak] using h a ha
      · exact absurd (h k' hk').symm (Memory.byte_head_ne hn (Memory.wfFrom_head hm) hgt)

/-- Writing back what a register holds changes nothing. -/
theorem RegFile.set_get_self (r : RegFile) (i : Fin 8) : r.set i (r.get i) = r := by
  fin_cases i <;> rfl

/-! ### The statements -/

/-- Settles O42: both memories are canonical from address 0. -/
theorem equalContentsAreEqualMemories : Obligations.EqualContentsAreEqualMemories := by
  unfold Obligations.EqualContentsAreEqualMemories
  exact fun m n hm hn h => Memory.eq_of_byte_eq hm hn h

/-- Settles O43: the read after the write, of the register file; SP is R7 by definition. -/
theorem registersHoldWhatWasWritten : Obligations.RegistersHoldWhatWasWritten := by
  unfold Obligations.RegistersHoldWhatWasWritten
  exact fun s i j v => ⟨RegFile.get_set_self _ _ _, RegFile.get_set_ne _ _, rfl, RegFile.get_set_self _ 7 v⟩

end Sys2Proof.Machine

/-! ## Pairs of instructions -/

namespace Sys2Proof.Machine

/-! ### A push and the pop that undoes it -/

/-- The state a push of `v` leaves, with PC then at `p` (R170). -/
def State.pushed (s : State) (v : Byte) (p : Pc) : State :=
  { s with regs := s.regs.set 7 (s.sp - 1), mem := s.mem.set (s.sp - 1).toNat v, pc := p }

section

variable {s : State} {a : Byte} {i : Fin 8}

/-- SP at least 1 is the guard of a push. -/
theorem State.sp_ne_zero (h : 1 ≤ s.sp.toNat) : s.sp ≠ 0#8 := by
  intro h0
  simp [h0] at h

/-- R170: below SP there is room for the pop that undoes a push. -/
theorem State.sp_sub_one_ne_top (h : 1 ≤ s.sp.toNat) : s.sp - 1 ≠ 255#8 := by
  bv_omega

theorem exec_push_eq_pushed (ha : Names a i) (h : 1 ≤ s.sp.toNat) :
    exec (.push a) s = .next (s.pushed (s.reg i) (s.pc + 2)) :=
  exec_of_effect (.push ha (State.sp_ne_zero h))

theorem exec_call_eq_pushed (ha : Names a i) (h : 1 ≤ s.sp.toNat) :
    exec (.call a) s = .next (s.pushed (returnAddress s.pc) (zext9 ((s.regs.set 7 (s.sp - 1)).get i))) :=
  exec_of_effect (.call ha (State.sp_ne_zero h))

variable (s) (v : Byte) (p : Pc)

@[simp] theorem State.pushed_sp : (s.pushed v p).sp = s.sp - 1 := RegFile.get_set_self s.regs 7 _

/-- R52, R170: the byte at the new SP is the one pushed. -/
theorem State.pushed_byte_sp (hwf : s.mem.wf = true) : (s.pushed v p).mem.byte (s.sp - 1).toNat = v :=
  Memory.byte_set_self _ v hwf

/-- R170: the increment of a pop undoes the decrement of a push, and SP is the one register either writes. -/
theorem State.pushed_regs_set_sp : (s.pushed v p).regs.set 7 ((s.pushed v p).sp + 1) = s.regs := by
  rw [State.pushed_sp, BitVec.sub_add_cancel]
  exact (RegFile.set_set s.regs 7 _ _).trans (RegFile.set_get_self s.regs 7)

end

/-- R185: a pop into the register pushed restores the register file: it writes back to R[a] what it held. -/
theorem exec_pop_pushed {s : State} {a : Byte} {i : Fin 8} (p : Pc) (ha : Names a i) (hwf : s.mem.wf = true)
    (hsp : 1 ≤ s.sp.toNat) : ∃ u, exec (.pop a) (s.pushed (s.reg i) p) = .next u ∧ u.regs = s.regs := by
  have hroom : (s.pushed (s.reg i) p).sp ≠ 255#8 := by
    rw [State.pushed_sp]
    exact State.sp_sub_one_ne_top hsp
  refine ⟨_, exec_of_effect (.pop ha hroom), ?_⟩
  rw [State.advance_regs, State.setReg_regs, State.setSp_regs, State.pushed_regs_set_sp, State.pushed_sp,
    State.pushed_byte_sp s _ p hwf]
  exact RegFile.set_get_self s.regs i

/-- R190: the return address of a fetchable PC keeps every bit of p + 2. -/
theorem returnAddress_toNat {p : Pc} (h : p.toNat ≤ 253) : (returnAddress p).toNat = p.toNat + 2 := by
  rw [returnAddress_eq_ofNat, BitVec.toNat_ofNat]
  omega

/-! ### The statements -/

/-- Settles O44: the register that PRN emits is the one LDI wrote. -/
theorem loadThenPrintEmitsTheImmediate : Obligations.LoadThenPrintEmitsTheImmediate := by
  unfold Obligations.LoadThenPrintEmitsTheImmediate
  intro r v s hr
  have ha : Names r ⟨r.toNat, hr⟩ := rfl
  refine ⟨_, _, exec_of_effect (.ldi v ha), exec_of_effect (.prn ha), ?_⟩
  simp [State.reg_eq]

/-- Settles O46: the pop finds the byte the push stored, so R[a] is written back, after SP and for R7 too. -/
theorem pushThenPopIsRoundTrip : Obligations.PushThenPopIsRoundTrip := by
  unfold Obligations.PushThenPopIsRoundTrip
  intro a i s ha hwf hsp
  obtain ⟨u, hpop, hregs⟩ := exec_pop_pushed (s.pc + 2) ha hwf hsp
  have hreg : ∀ j, u.reg j = s.reg j := fun j => congrArg (RegFile.get · j) hregs
  exact ⟨_, u, exec_push_eq_pushed ha hsp, hpop, hreg i, hreg 7, hreg⟩

/-- Settles O47: RET reads the return address, which CALL stored, and undoes CALL's decrement of SP. -/
theorem returnGoesBehindTheCall : Obligations.ReturnGoesBehindTheCall := by
  unfold Obligations.ReturnGoesBehindTheCall
  intro a i s ha hwf hpc hsp
  refine ⟨_, exec_call_eq_pushed ha hsp, fun u husp hubyte => ?_⟩
  rw [State.pushed_sp] at husp
  rw [husp, State.pushed_byte_sp s _ _ hwf] at hubyte
  have hroom : u.sp ≠ 255#8 := by
    rw [husp]
    exact State.sp_sub_one_ne_top hsp
  refine ⟨_, exec_of_effect (.ret hroom), ?_, ?_⟩
  · rw [State.jump_pc, zext9_toNat, husp, hubyte, returnAddress_toNat hpc]
  · calc _ = u.sp + 1 := RegFile.get_set_self u.regs 7 _
      _ = s.sp := by rw [husp, BitVec.sub_add_cancel]

/-- Settles O48: after CMP the flag E is the equality of the two registers, and JEQ jumps exactly with E set. -/
theorem compareThenJeqBranchesOnEquality : Obligations.CompareThenJeqBranchesOnEquality := by
  unfold Obligations.CompareThenJeqBranchesOnEquality
  intro a b c i j k s ha hb hc hpc
  by_cases heq : s.reg i = s.reg j
  · have he : (compareFlags (s.reg i) (s.reg j)).e = true := by simp [compareFlags, heq]
    exact ⟨_, _, exec_of_effect (.cmp ha hb), exec_of_effect (.jeqTaken he hc), fun _ => zext9_toNat _,
      fun hne => absurd heq hne⟩
  · have he : (compareFlags (s.reg i) (s.reg j)).e = false := by
      simpa [compareFlags, BitVec.toNat_inj] using heq
    have hnext : (s.advance 3).pc.toNat = s.pc.toNat + 3 := State.advance_pc_toNat (by omega)
    exact ⟨_, _, exec_of_effect (.cmp ha hb), exec_of_effect (.jeqNotTaken c he), fun h => absurd h heq,
      fun _ => ⟨rfl, hnext⟩⟩

end Sys2Proof.Machine

/-! ## The host port: refusals, writes and the boot -/

namespace Sys2Proof.Machine

section

variable {s : State} {c : HostCmd} {q : List (Option HostCmd)}

/-! ### Commands out of their run state -/

/-- R40, decision D21: a command in a run state not listed for it is answered as refused. -/
theorem hostCommand_of_not_accepted (h : hostAccepts c s.rs = false) :
    hostCommand c s = .next (s.reply .refused) := by
  have write : (s.rs == .idle) = false → s.rs ≠ .idle := by simp
  have read : (s.rs != .running) = false → s.rs = .running := by simp
  cases c with
  | reset => cases h
  | load => rw [hostCommand, hostLoad, if_neg (write h)]
  | writeReg => rw [hostCommand, hostWriteReg, hostWrite, if_neg (write h)]
  | writeFl => rw [hostCommand, hostWriteFl, hostWrite, if_neg (write h)]
  | writePc => rw [hostCommand, hostWritePc, hostWrite, if_neg (write h)]
  | start => rw [hostCommand, hostStart, if_neg (write h)]
  | readMem | readReg | readFl | readPc | readOut => simp only [hostCommand, hostRead, read h, hostMayRead]; rfl

/-! ### Commands in Idle -/

/-- R40, R66: a load inside memory writes its cell. -/
theorem hostLoad_inRange {n : Nat} (v : Byte) (hi : s.rs = .idle) (hn : n < 256) :
    hostLoad n v s = State.reply { s with mem := s.mem.set n v } .accepted := by
  rw [hostLoad, if_pos hi, memWrite_inRange v s (by omega) (by omega)]
  rfl

/-- R66, decision D20: a load outside memory has no architectural effect. -/
theorem hostLoad_outOfRange {addr : Int} (v : Byte) (hi : s.rs = .idle) (hout : addr < 0 ∨ 256 ≤ addr) :
    hostLoad addr v s = s.noteLoadRefused.reply (.addressOutOfRange addr) := by
  rw [hostLoad, if_pos hi, memWrite_outOfRange v s hout]

theorem hostWrite_idle (write : State → State) (hi : s.rs = .idle) :
    hostWrite write s = (write s).reply .accepted :=
  if_pos hi

theorem hostStart_idle (hi : s.rs = .idle) (hl : s.port.loadRefused = false) :
    hostStart s = .next (State.reply { s with rs := .running } .accepted) := by
  rw [hostStart, if_pos hi, if_neg (by simp [hl])]

theorem hostStart_loadRefused (hi : s.rs = .idle) (hl : s.port.loadRefused = true) :
    hostStart s = .refused .startAfterRefusedLoad := by
  rw [hostStart, if_pos hi, if_pos hl]

/-! ### Steps that serve a command in Idle -/

theorem step_of_load_inRange {n : Nat} (v : Byte) (hi : s.rs = .idle) (hn : n < 256)
    (hp : s.port.pending = some (.load n v) :: q) :
    step s = .next { s with mem := s.mem.set n v, port := answered s q .accepted } :=
  (step_of_command hp).trans (congrArg Host.Outcome.next (hostLoad_inRange (s := s.setPending q) v hi hn))

theorem step_of_load_outOfRange {addr : Int} (v : Byte) (hi : s.rs = .idle) (hout : addr < 0 ∨ 256 ≤ addr)
    (hp : s.port.pending = some (.load addr v) :: q) :
    step s = .next { s with port := ⟨q, s.port.replies ++ [.addressOutOfRange addr], true⟩ } :=
  (step_of_command hp).trans (congrArg Host.Outcome.next (hostLoad_outOfRange (s := s.setPending q) v hi hout))

/-- R40: a command that writes state does so in Idle, and is answered as accepted. -/
theorem step_of_write (write : State → State) (hi : s.rs = .idle) (hp : s.port.pending = some c :: q)
    (hc : ∀ t, hostCommand c t = .next (hostWrite write t)) :
    step s = .next ((write (s.setPending q)).reply .accepted) := by
  rw [step_of_command hp, hc, hostWrite_idle write (s := s.setPending q) hi]

theorem step_of_start (hi : s.rs = .idle) (hl : s.port.loadRefused = false)
    (hp : s.port.pending = some .start :: q) :
    step s = .next { s with rs := .running, port := answered s q .accepted } :=
  (step_of_command hp).trans (hostStart_idle (s := s.setPending q) hi hl)

theorem step_of_start_loadRefused (hi : s.rs = .idle) (hl : s.port.loadRefused = true)
    (hp : s.port.pending = some .start :: q) : step s = .refused .startAfterRefusedLoad :=
  (step_of_command hp).trans (hostStart_loadRefused (s := s.setPending q) hi hl)

end

/-! ### The loads of an image -/

/-- The memory after the bytes of an image are written from address `n` up (R66). -/
def Memory.writeImage : Nat → List Byte → Memory → Memory
  | _, [], m => m
  | n, v :: rest, m => Memory.writeImage (n + 1) rest (m.set n v)

theorem Memory.wf_writeImage {n : Nat} {image : List Byte} {m : Memory} (hm : m.wf = true)
    (hlen : n + image.length ≤ 256) : (Memory.writeImage n image m).wf = true := by
  induction image generalizing n m with
  | nil => exact hm
  | cons v rest ih =>
    rw [List.length_cons] at hlen
    exact ih (Memory.wf_set v hm (by omega)) (by omega)

theorem Memory.byte_writeImage_below {n a : Nat} (image : List Byte) (m : Memory) (ha : a < n) :
    (Memory.writeImage n image m).byte a = m.byte a := by
  induction image generalizing n m with
  | nil => rfl
  | cons v rest ih =>
    rw [Memory.writeImage, ih _ (by omega), Memory.byte_set_ne m v (by omega)]

/-- From its first address up, a memory that was 0x00 there reads as the image, and as 0x00 above it. -/
theorem Memory.byte_writeImage {n : Nat} {image : List Byte} {m : Memory} (hm : m.wf = true)
    (hlen : n + image.length ≤ 256) (hzero : ∀ a : Nat, n ≤ a → m.byte a = 0x00) (k : Nat) :
    (Memory.writeImage n image m).byte (n + k) = image.getD k 0x00 := by
  induction image generalizing n m k with
  | nil => exact hzero (n + k) (Nat.le_add_right n k)
  | cons v rest ih =>
    rw [List.length_cons] at hlen
    rw [Memory.writeImage]
    cases k with
    | zero => exact (Memory.byte_writeImage_below rest _ (Nat.lt_succ_self n)).trans (Memory.byte_set_self n v hm)
    | succ k =>
      have hzero' : ∀ a : Nat, n + 1 ≤ a → (m.set n v).byte a = 0x00 := fun a ha => by
        rw [Memory.byte_set_ne m v (by omega), hzero a (by omega)]
      rw [List.getD_cons_succ, ← ih (Memory.wf_set v hm (by omega)) (by omega) hzero' k]
      congr 1
      omega

/-- R66, R351: the loads of an image that fits in memory write it, and of the rest only the host port. -/
theorem run_loadScript {s : State} {n : Nat} {image : List Byte} {q : List (Option HostCmd)} (k : Nat)
    (hi : s.rs = .idle) (hlen : n + image.length ≤ 256) (hp : s.port.pending = loadScript n image ++ q) :
    ∃ p : HostPort, p.pending = q ∧ p.loadRefused = s.port.loadRefused ∧
      Sys2Proof.core.run (image.length + k) s =
        Sys2Proof.core.run k { s with mem := Memory.writeImage n image s.mem, port := p } := by
  induction image generalizing s n with
  | nil => exact ⟨s.port, hp, rfl, by rw [List.length_nil, Nat.zero_add]; rfl⟩
  | cons v rest ih =>
    rw [List.length_cons] at hlen
    rw [List.length_cons, Nat.add_right_comm, run_succ_next _ (step_of_load_inRange v hi (by omega) hp)]
    exact ih (n := n + 1) (s := { s with
      mem := s.mem.set n v, port := answered s (loadScript (n + 1) rest ++ q) .accepted }) hi (by omega) rfl

/-- R66, decision D20: the loads of an image that does not fit leave a load refused, and the start that follows them is
refused; so it is, whatever the image, where a load was refused before. -/
theorem run_loadScript_start_refused {s : State} {n : Nat} {image : List Byte} (hi : s.rs = .idle)
    (hp : s.port.pending = loadScript n image ++ [some .start])
    (h : s.port.loadRefused = true ∨ (n ≤ 256 ∧ 256 < n + image.length)) :
    Sys2Proof.core.run (image.length + 1) s = .refused .startAfterRefusedLoad := by
  induction image generalizing s n with
  | nil =>
    have hl : s.port.loadRefused = true := h.resolve_right fun ⟨hn, hlen⟩ => by simp at hlen; omega
    exact run_succ_refused 0 (step_of_start_loadRefused hi hl hp)
  | cons v rest ih =>
    by_cases hn : n < 256
    · rw [List.length_cons, run_succ_next _ (step_of_load_inRange v hi hn hp)]
      exact ih hi rfl (h.imp_right fun ⟨_, hlen⟩ => by rw [List.length_cons] at hlen; omega)
    · rw [List.length_cons, run_succ_next _ (step_of_load_outOfRange v hi (.inr (by omega)) hp)]
      exact ih hi rfl (.inl rfl)

/-! ### The statements -/

/-- Settles O53: the table of R40 refuses the command, and the schedule entry is used. -/
theorem hostCommandOutOfItsStateIsRefused : Obligations.HostCommandOutOfItsStateIsRefused := by
  unfold Obligations.HostCommandOutOfItsStateIsRefused
  intro s c q hp hrefused
  exact (step_of_command hp).trans (hostCommand_of_not_accepted (s := s.setPending q) hrefused)

/-- Settles O54: load is the checked write of R51, the three writes are accepted in Idle, and so is a start with no
refused load before it. -/
theorem hostWritesAndStartInIdle : Obligations.HostWritesAndStartInIdle := by
  unfold Obligations.HostWritesAndStartInIdle
  intro s q hi
  refine ⟨fun n v hn hp => step_of_load_inRange v hi hn hp, fun addr v hout hp => step_of_load_outOfRange v hi hout hp,
    fun i v hp => ?_, fun f hp => ?_, fun p hp => ?_, fun hl hp => step_of_start hi hl hp⟩
  · exact step_of_write (fun t => t.setReg i v) hi hp fun _ => rfl
  · exact step_of_write (fun t => t.setFl (Flags.ofByte f)) hi hp fun _ => rfl
  · refine ⟨_, step_of_write (fun t => { t with pc := BitVec.ofNat 9 p.val }) hi hp fun _ => rfl, ?_, rfl⟩
    rw [State.reply_pc, BitVec.toNat_ofNat]
    omega

/-- Settles O56: the reset leaves the empty cell list and Idle, the loads write the image, and the start makes RS
Running. -/
theorem bootReachesTheLaunchState : Obligations.BootReachesTheLaunchState := by
  unfold Obligations.BootReachesTheLaunchState
  intro image s hlen hp
  have hfits : 0 + image.length ≤ 256 := by omega
  have hreset := step_of_reset hp
  obtain ⟨p, hpending, hload, hrun⟩ := run_loadScript (q := [some .start]) (s := { State.resetWith s.spReset with
    port := ⟨loadScript 0 image ++ [some .start], s.port.replies ++ [.accepted], false⟩ }) 1 rfl hfits rfl
  rw [run_succ_next (image.length + 1) hreset, hrun, run_succ_next 0 (step_of_start rfl hload hpending)]
  refine ⟨_, run_zero _, rfl, rfl, fun a => ?_, Memory.wf_writeImage rfl hfits, rfl, rfl, rfl, rfl, rfl⟩
  simpa only [Nat.zero_add] using Memory.byte_writeImage rfl hfits (fun _ _ => rfl) a

/-- Settles O57: the reset leaves Idle at address 0, and the loads do not fit. -/
theorem longImageHasNoRun : Obligations.LongImageHasNoRun := by
  unfold Obligations.LongImageHasNoRun
  intro image s hlen hp
  rw [run_succ_next (image.length + 1) (step_of_reset hp)]
  exact run_loadScript_start_refused rfl rfl (.inr ⟨Nat.zero_le _, by omega⟩)

/-- Settles O52: the reset state, and the step that serves a reset. -/
theorem resetSetsEveryRegister : Obligations.ResetSetsEveryRegister := by
  unfold Obligations.ResetSetsEveryRegister
  exact ⟨rfl, rfl, rfl, rfl, rfl, fun s q hp => step_of_reset hp⟩

end Sys2Proof.Machine

/-! ## The fetch, and the status and trace ports -/

namespace Sys2Proof.Machine

/-- R33: out of Faulted the status port shows no fault. -/
theorem statusPort_of_not_faulted {s : State} (h : s.rs ≠ .faulted) : statusPort s = ⟨s.rs, 0, 0, s.fr.pc⟩ := by
  simp only [statusPort, if_neg h]
  rfl

/-- R39, R300: the status port after a fault. -/
theorem statusPort_raiseFault (c : FaultCause) (s : State) :
    statusPort (raiseFault c s) = ⟨.faulted, faultCode (some c), BitVec.ofInt 16 (faultInfo (some c)), s.pc⟩ := rfl

/-- R300: the 16 bits of FR.info hold a byte unchanged. -/
theorem ofInt_toNat_of_byte (b : Byte) : (BitVec.ofInt 16 (b.toNat : Int)).toNat = b.toNat := by
  have := b.isLt
  rw [BitVec.ofInt_natCast, BitVec.toNat_ofNat]
  omega

/-- The trace port in a step that the core takes presents the record of its cycle. -/
theorem CoreTurn.stepTrace_eq {s s' : State} (h : CoreTurn s s') : stepTrace s = traceRecord s := by
  obtain ⟨hp, -⟩ | ⟨q, hp, -⟩ := h <;> simp only [stepTrace, hp]

theorem traceRecord_of_not_running {s : State} (h : s.rs ≠ .running) : traceRecord s = none := by
  cases hr : s.rs with
  | running => exact absurd hr h
  | idle | halted | faulted => simp only [traceRecord, hr]

/-- R310: a running cycle presents a record after a good fetch. -/
theorem traceRecord_of_fetch_ok {s : State} {l : Latch} (hr : s.rs = .running) (hf : fetch s = .ok l) :
    traceRecord s = some ⟨s.pc, l.ir, l.a, l.b, s.regs⟩ := by
  simp only [traceRecord, hr, hf]

theorem traceRecord_of_fetch_error {s : State} {c : FaultCause} (hr : s.rs = .running) (hf : fetch s = .error c) :
    traceRecord s = none := by
  simp only [traceRecord, hr, hf]

/-! ### The statements -/

/-- Settles O6: both branches of the three checked reads. -/
theorem fetchReadsThreeCheckedBytes : Obligations.FetchReadsThreeCheckedBytes := by
  unfold Obligations.FetchReadsThreeCheckedBytes
  exact fun s => ⟨fetch_eq_latchAt, fetch_outOfRange⟩

/-- Settles O7: the step is the cycle of the state with its schedule entry used, which fetches the same bytes. -/
theorem stepRunsTheDecodedInstruction : Obligations.StepRunsTheDecodedInstruction := by
  unfold Obligations.StepRunsTheDecodedInstruction
  intro s s' i hturn hrun hpc hd
  have hfetch : fetch s' = .ok (latchAt s) := hturn.fetch_eq.trans (fetch_eq_latchAt hpc)
  rw [hturn.step_eq_cycle, cycle_of_decode_ok (hturn.rs.trans hrun) hfetch hd]

/-- Settles O58: the codes of R300, -1 and 256 in 16 bits, and a byte, which 16 bits hold unchanged. -/
theorem statusPortShowsTheFault : Obligations.StatusPortShowsTheFault := by
  unfold Obligations.StatusPortShowsTheFault
  exact ⟨fun s h => statusPort_of_not_faulted h, statusPort_raiseFault _, statusPort_raiseFault _,
    fun s r => ⟨_, statusPort_raiseFault _ s, ofInt_toNat_of_byte r⟩,
    fun s b => ⟨_, statusPort_raiseFault _ s, ofInt_toNat_of_byte b⟩⟩

/-- Settles O59: the record follows the fetch, which is good up to PC 253 and fails from there to 256. -/
theorem tracePortShowsEachGoodFetch : Obligations.TracePortShowsEachGoodFetch := by
  unfold Obligations.TracePortShowsEachGoodFetch
  intro s s' hturn
  rw [hturn.stepTrace_eq]
  exact ⟨fun hrun hpc => traceRecord_of_fetch_ok hrun (fetch_eq_latchAt hpc),
    fun hrun h254 h256 => traceRecord_of_fetch_error hrun (fetch_outOfRange h254 h256), traceRecord_of_not_running⟩

end Sys2Proof.Machine
